-- ==== Sys2Proof/Word.lean ====
section
/-! DEFINITION. The two value types of the machine: a byte of 8 bits and a word of 16 bits
(00_scope.md R7, R10). Their plain `+` and `-` are the spec's `+_8`, `-_8`, `+_16`, `-_16`. -/

namespace Sys2Proof

/-- An 8-bit value: a register half, a byte of memory, an immediate byte (00_scope.md R7). -/
abbrev Byte := BitVec 8

/-- A 16-bit value: a register slot, an address, an immediate word (00_scope.md R7). -/
abbrev Word := BitVec 16

end Sys2Proof
end

