-- ==== Sys2Proof/Machine/Bits.lean ====
section
/-! DEFINITION. Byte order and sign extension: how a word is made of two bytes, and `sext_16` (00_scope.md R9, R10;
20_memory.md R70). -/

namespace Sys2Proof.Machine

/-- Bits 15:8 of a word. -/
def hi (w : Word) : Byte := w.extractLsb' 8 8

/-- Bits 7:0 of a word. -/
def lo (w : Word) : Byte := w.extractLsb' 0 8

/-- The word with high byte `h` and low byte `l`, written `{h, l}` in the spec (00_scope.md R9). -/
def combine (h l : Byte) : Word := h ++ l

/-- `sext_16`: an 8-bit value widened to 16 bits by copying bit 7 (00_scope.md R10). -/
def sext16 (v : Byte) : Word := v.signExtend 16

/-- The address `{0xFF, v}` of the high-memory forms (30_encoding.md R105; 40_data_movement.md R148, R150). -/
def highAddr (v : Byte) : Word := combine 0xFF v

end Sys2Proof.Machine
end

