-- ==== Sys2Proof/Config.lean ====
section
/-! DEFINITION. What is fixed for this hardware. The spec leaves no instruction result undefined (00_scope.md R17), so
no free value stands here; the spec's four open parameters (00_scope.md R8) are arguments of `tick` and of the host's port. -/

namespace Sys2Proof

/-- What a storage byte holds that nothing has written since power-on (20_memory.md R68; 70_reset_and_hazards.md R341). -/
def Config.unwritten : Byte := 0x00

/-- The address of the first instruction after power-on (70_reset_and_hazards.md R342). -/
def Config.entryPoint : Word := 0x0000

/-- The longest instruction, in bytes (30_encoding.md R100). -/
def Config.maxLength : Nat := 3

end Sys2Proof
end

