-- ==== Sys2Proof/Machine/Memory.lean ====
section
/-! DEFINITION. The address map of 20_memory.md R61 and memory as plain data: a list of (address, byte) pairs with
addresses strictly rising and no entry equal to what an unlisted address reads as. -/

namespace Sys2Proof.Machine

/-- The twelve segments of 20_memory.md R61. -/
inductive Segment where
  | romBank0 | romSwitchable | vram | externalRam | workRam0 | workRamSwitchable | echoRam | oam | unmapped | io
  | highRam | ie
deriving DecidableEq, Repr

/-- The segment of an address: the numeric range table of 20_memory.md R61. -/
def segmentOf (addr : Word) : Segment :=
  if addr.toNat ≤ 0x3FFF then .romBank0
  else if addr.toNat ≤ 0x7FFF then .romSwitchable
  else if addr.toNat ≤ 0x9FFF then .vram
  else if addr.toNat ≤ 0xBFFF then .externalRam
  else if addr.toNat ≤ 0xCFFF then .workRam0
  else if addr.toNat ≤ 0xDFFF then .workRamSwitchable
  else if addr.toNat ≤ 0xFDFF then .echoRam
  else if addr.toNat ≤ 0xFE9F then .oam
  else if addr.toNat ≤ 0xFEFF then .unmapped
  else if addr.toNat ≤ 0xFF7F then .io
  else if addr.toNat ≤ 0xFFFE then .highRam
  else .ie

/-- Whether a segment holds storage; the other two raise BusFault on every access (20_memory.md R61, R62). -/
def Segment.hasStorage : Segment → Bool
  | .echoRam => false
  | .unmapped => false
  | _ => true

/-- Whether an address holds a byte of storage (10_state.md R48). -/
def isStorage (addr : Word) : Bool := (segmentOf addr).hasStorage

/-- Memory contents: the bytes that differ from `Config.unwritten`, by address, addresses strictly rising. -/
abbrev Memory := List Host.Cell

/-- The byte held at an address; an unlisted address holds `Config.unwritten` (20_memory.md R68). -/
def Memory.get : Memory → Nat → Byte
  | [], _ => Config.unwritten
  | (k, v) :: m, addr => if k = addr then v else Memory.get m addr

/-- The cells of every other address. -/
def Memory.erase : Memory → Nat → Memory
  | [], _ => []
  | (k, v) :: m, addr => if k = addr then Memory.erase m addr else (k, v) :: Memory.erase m addr

/-- A cell put in front of the first cell with a greater address. -/
def Memory.insert : Memory → Nat → Byte → Memory
  | [], addr, v => [(addr, v)]
  | (k, w) :: m, addr, v => if addr < k then (addr, v) :: (k, w) :: m else (k, w) :: Memory.insert m addr v

/-- The contents after storing `v` at an address, in canonical form: storing `Config.unwritten` unlists the address. -/
def Memory.set (m : Memory) (addr : Nat) (v : Byte) : Memory :=
  if v = Config.unwritten then Memory.erase m addr else Memory.insert (Memory.erase m addr) addr v

/-- The canonical form: addresses strictly rising, every listed address a storage address (10_state.md R48), no listed
byte equal to `Config.unwritten`. -/
abbrev Memory.wf (m : Memory) : Prop :=
  m.Pairwise (fun c c' => c.1 < c'.1) ∧
  ∀ c ∈ m, c.1 < 65536 ∧ isStorage (BitVec.ofNat 16 c.1) = true ∧ c.2 ≠ Config.unwritten

end Sys2Proof.Machine
end

