-- ==== Sys2Proof/Syntax.lean ====
section
/-! DEFINITION. The instructions as the decoder hands them to the executor: one constructor of `Instr` per row of
spec/opcode_table.json (30_encoding.md R104), and the operand selectors of 10_state.md R30 to R35. -/

namespace Sys2Proof

/-- The 8-bit registers of the register file's byte interface (10_state.md R21, R23). -/
inductive Reg8 where
  | a | f | b | c | d | e | h | l
deriving DecidableEq, Repr

/-- The six 16-bit slots of the register file (10_state.md R20, R23). -/
inductive Reg16 where
  | af | bc | de | hl | sp | pc
deriving DecidableEq, Repr

/-- The four flags (10_state.md R25). -/
inductive Flag where
  | z | n | h | c
deriving DecidableEq, Repr

/-- R8, the 3-bit 8-bit operand selector: seven registers, and `hlMem`, the byte of memory at HL (10_state.md R30). -/
inductive R8 where
  | b | c | d | e | h | l | hlMem | a
deriving DecidableEq, Repr

/-- R16, the general 16-bit pair selector (10_state.md R31). -/
inductive R16 where
  | bc | de | hl | sp
deriving DecidableEq, Repr

/-- R16MEM, the memory-indirect pair selector; `hlInc` is `(HL+)`, `hlDec` is `(HL-)` (10_state.md R32). -/
inductive R16Mem where
  | bc | de | hlInc | hlDec
deriving DecidableEq, Repr

/-- R16STK, the push and pop pair selector (10_state.md R33). -/
inductive R16Stk where
  | bc | de | hl | af
deriving DecidableEq, Repr

/-- COND, the branch condition selector (10_state.md R34). -/
inductive Cond where
  | nz | z | nc | c
deriving DecidableEq, Repr

/-- The instructions, one constructor per row of spec/opcode_table.json, in the table's order. Operands: an R8, R16,
R16MEM, R16STK or COND selector; `imm8`, `e8`, `a8` one operand byte; `imm16`, `a16` one operand word; `t`, `n` the
3-bit literal (10_state.md R35). -/
inductive Instr where
  | nop
  | ldA16Sp (a16 : Word)
  | stop
  | jrE8 (e8 : Byte)
  | rlca
  | rrca
  | rla
  | rra
  | daa
  | cpl
  | scf
  | ccf
  | halt
  | ldHlImm8 (imm8 : Byte)
  | incHl
  | decHl
  | jrCcE8 (cc : Cond) (e8 : Byte)
  | ldR16Imm16 (p : R16) (imm16 : Word)
  | ldR16MemA (p : R16Mem)
  | ldAR16Mem (p : R16Mem)
  | incR16 (p : R16)
  | decR16 (p : R16)
  | addHlR16 (p : R16)
  | incR8 (dst : R8)
  | decR8 (dst : R8)
  | ldR8Imm8 (dst : R8) (imm8 : Byte)
  | ldR8Hl (dst : R8)
  | ldHlR8 (r : R8)
  | ldR8R8 (dst : R8) (r : R8)
  | addAR8 (r : R8)
  | adcAR8 (r : R8)
  | subAR8 (r : R8)
  | sbcAR8 (r : R8)
  | andAR8 (r : R8)
  | xorAR8 (r : R8)
  | orAR8 (r : R8)
  | cpAR8 (r : R8)
  | addAImm8 (imm8 : Byte)
  | adcAImm8 (imm8 : Byte)
  | subAImm8 (imm8 : Byte)
  | sbcAImm8 (imm8 : Byte)
  | andAImm8 (imm8 : Byte)
  | xorAImm8 (imm8 : Byte)
  | orAImm8 (imm8 : Byte)
  | cpAImm8 (imm8 : Byte)
  | retCc (cc : Cond)
  | jpCcA16 (cc : Cond) (a16 : Word)
  | callCcA16 (cc : Cond) (a16 : Word)
  | jpA16 (a16 : Word)
  | ret
  | reti
  | callA16 (a16 : Word)
  /-- The prefix row with its second byte `cb`; not an instruction by itself (43_rotate_shift_bit.md R232,
  46_daa_misc.md R296; notes/assumptions/4.md). -/
  | prefixCb (cb : Byte)
  | jpHl
  | rstVec (t : BitVec 3)
  | popR16stk (p : R16Stk)
  | pushR16stk (p : R16Stk)
  | ldhA8A (a8 : Byte)
  | ldhCA
  | ldA16A (a16 : Word)
  | ldhAA8 (a8 : Byte)
  | ldhAC
  | ldAA16 (a16 : Word)
  | addSpE8 (e8 : Byte)
  | ldHlSpE8 (e8 : Byte)
  | ldSpHl
  | di
  | ei
  | illegalD3
  | illegalDB
  | illegalDD
  | illegalE3
  | illegalE4
  | illegalEB
  | illegalEC
  | illegalED
  | illegalF4
  | illegalFC
  | illegalFD
  | rlcR8 (t : R8)
  | rrcR8 (t : R8)
  | rlR8 (t : R8)
  | rrR8 (t : R8)
  | slaR8 (t : R8)
  | sraR8 (t : R8)
  | swapR8 (t : R8)
  | srlR8 (t : R8)
  | bitNR8 (n : BitVec 3) (t : R8)
  | resNR8 (n : BitVec 3) (t : R8)
  | setNR8 (n : BitVec 3) (t : R8)
deriving DecidableEq, Repr

end Sys2Proof
end

