-- ==== Sys2Proof/Machine/State.lean ====
section
/-! DEFINITION. The state of the machine (10_state.md), why a step can stop (60_exceptions.md), and the state at
power-on (10_state.md R50). -/

namespace Sys2Proof.Machine

/-- Who asked for a bus access that faulted (60_exceptions.md R311). -/
inductive AccessKind where
  /-- The decoder's fetch. -/
  | fetch
  /-- A read by the executor or the host. -/
  | read
  /-- A write by the executor or the host. -/
  | write
deriving DecidableEq, Repr

/-- What a fault records (10_state.md R45; 60_exceptions.md R310, R311). -/
inductive FaultRecord where
  /-- `op` matches no instruction; it was fetched from `addr`. -/
  | decodeFault (op : Byte) (addr : Word)
  /-- The byte access of that kind at `addr` fell in echo RAM or in the unmapped gap. -/
  | busFault (addr : Word) (kind : AccessKind)
deriving DecidableEq, Repr

/-- The whole state of the block (10_state.md R47: R20, R42, R44, R45, and memory, R48). -/
structure State where
  /-- A in bits 15:8, F in bits 7:0 (10_state.md R20, R21, R25). -/
  af : Word
  /-- B in bits 15:8, C in bits 7:0 (10_state.md R20, R21). -/
  bc : Word
  /-- D in bits 15:8, E in bits 7:0 (10_state.md R20, R21). -/
  de : Word
  /-- H in bits 15:8, L in bits 7:0 (10_state.md R20, R21). -/
  hl : Word
  /-- The stack pointer (10_state.md R41). -/
  sp : Word
  /-- The program counter (10_state.md R36). -/
  pc : Word
  /-- The contents of memory, the IE byte at 0xFFFF included (10_state.md R43, R48). -/
  mem : Memory
  /-- The interrupt master enable (10_state.md R42). -/
  ime : Bool
  /-- Set by `HALT` (10_state.md R44). -/
  halted : Bool
  /-- The record that a tick or an access of the host ended in a fault (10_state.md R45; 60_exceptions.md R312, R328). -/
  fault : Option FaultRecord
deriving DecidableEq, Repr

/-- The machine at power-on: everything zero, entry at 0x0000, no fault (10_state.md R50; 70_reset_and_hazards.md R341,
R342). -/
def State.reset : State :=
  { af := 0x0000, bc := 0x0000, de := 0x0000, hl := 0x0000, sp := 0x0000, pc := Config.entryPoint
    mem := [], ime := false, halted := false, fault := none }

/-- Why a step stops. `here` is the machine at the moment of the raise, as 60_exceptions.md R312 says what is known of
it: PC past every byte fetched, the earlier writes of the instruction performed. -/
inductive Fault where
  /-- Raised by an instruction row that is no instruction: the eleven illegal bytes and 0x10, and by the fetch for a byte
  that no row matches (60_exceptions.md R310). Safe: the spec ends the run there. -/
  | decodeFault (op : Byte) (addr : Word) (here : State)
  /-- Raised by every byte access to echo RAM or the unmapped gap (60_exceptions.md R311). Safe: the spec ends the run
  there. -/
  | busFault (addr : Word) (kind : AccessKind) (here : State)
  /-- Raised by a step of a machine whose fault is already recorded: no step is taken (60_exceptions.md R316). Safe. -/
  | runOver (record : FaultRecord) (here : State)
deriving DecidableEq, Repr

/-- Why an instruction has no meaning in the model. -/
inductive Refusal where
  /-- Raised by an arm of `exec` that has no meaning yet; no arm of this model is one. Safe. -/
  | notModelled (mnemonic : String)
deriving DecidableEq, Repr

/-- What executing an instruction answers. -/
abbrev Result := Host.Outcome State Fault Refusal

end Sys2Proof.Machine
end

