-- ==== Sys2Proof/Machine/Ops.lean ====
section
/-! DEFINITION. The named operations over registers and memory: the register file's interface (10_state.md R23), the
four bus operations (20_memory.md R64 to R67), push and pop (20_memory.md R71), raising a fault (60_exceptions.md R310
to R313), and how a meaning goes on after an operation that can fault. -/

namespace Sys2Proof.Machine

/-! ## The register file (10_state.md R20 to R27) -/

/-- `read16(sel)` (10_state.md R23). -/
def State.read16 (s : State) : Reg16 → Word
  | .af => s.af
  | .bc => s.bc
  | .de => s.de
  | .hl => s.hl
  | .sp => s.sp
  | .pc => s.pc

/-- `write16(sel, v)`; a write of AF drops bits 3:0, `v & 0xFFF0` (10_state.md R23, R26). -/
def State.write16 (s : State) (r : Reg16) (v : Word) : State :=
  match r with
  | .af => { s with af := v &&& 0xFFF0 }
  | .bc => { s with bc := v }
  | .de => { s with de := v }
  | .hl => { s with hl := v }
  | .sp => { s with sp := v }
  | .pc => { s with pc := v }

/-- `read8(sel)`: a half of its pair (10_state.md R21, R23). -/
def State.read8 (s : State) : Reg8 → Byte
  | .a => hi s.af
  | .f => lo s.af
  | .b => hi s.bc
  | .c => lo s.bc
  | .d => hi s.de
  | .e => lo s.de
  | .h => hi s.hl
  | .l => lo s.hl

/-- `write8(sel, v)`: a half of its pair, the other half kept; a write of F stores `v & 0xF0` (10_state.md R22, R23,
R26). -/
def State.write8 (s : State) (r : Reg8) (v : Byte) : State :=
  match r with
  | .a => { s with af := combine v (lo s.af) }
  | .f => { s with af := combine (hi s.af) (v &&& 0xF0) }
  | .b => { s with bc := combine v (lo s.bc) }
  | .c => { s with bc := combine (hi s.bc) v }
  | .d => { s with de := combine v (lo s.de) }
  | .e => { s with de := combine (hi s.de) v }
  | .h => { s with hl := combine v (lo s.hl) }
  | .l => { s with hl := combine (hi s.hl) v }

/-- The bit of F, hence of AF, that holds a flag: Z 7, N 6, H 5, C 4 (10_state.md R25). -/
def flagBit : Flag → Nat
  | .z => 7
  | .n => 6
  | .h => 5
  | .c => 4

/-- `read_flag(f)` (10_state.md R27). -/
def State.readFlag (s : State) (f : Flag) : Bool := s.af.getLsbD (flagBit f)

/-- `write_flag(f, v)`: the one bit that holds `f`, nothing else (10_state.md R27). -/
def State.writeFlag (s : State) (f : Flag) (v : Bool) : State :=
  { s with af := if v then s.af ||| (1#16 <<< flagBit f) else s.af &&& ~~~(1#16 <<< flagBit f) }

/-- All four flags written, in the order of the spec's pseudocode. -/
def State.writeFlags (s : State) (z n h c : Bool) : State :=
  (((s.writeFlag .z z).writeFlag .n n).writeFlag .h h).writeFlag .c c

/-- `IME <- v` (10_state.md R42). -/
def State.writeIme (s : State) (v : Bool) : State := { s with ime := v }

/-- `halted <- v` (10_state.md R44). -/
def State.writeHalted (s : State) (v : Bool) : State := { s with halted := v }

/-! ## Going on after an operation -/

/-- Go on with the value an operation gave, or stop with the fault it raised (00_scope.md R13). -/
def andThen {α : Type} (x : Except Fault α) (k : α → Result) : Result :=
  match x with
  | .ok a => k a
  | .error f => .fault f

/-- The end of a meaning: the state an operation gave is the next state. -/
def done (x : Except Fault State) : Result := andThen x .next

/-- What a fault records (10_state.md R45). -/
def Fault.record : Fault → FaultRecord
  | .decodeFault op addr _ => .decodeFault op addr
  | .busFault addr kind _ => .busFault addr kind
  | .runOver r _ => r

/-- The machine at the moment of the raise (60_exceptions.md R312). -/
def Fault.here : Fault → State
  | .decodeFault _ _ s => s
  | .busFault _ _ s => s
  | .runOver _ s => s

/-- FAULT_STATE: what is left of the machine after a fault, from the record and the machine at the moment of the raise. Any
value (60_exceptions.md R312; 00_scope.md R8). -/
abbrev FaultState := FaultRecord → State → State

/-- The faulted condition that a fault puts `s` in, whoever asked for the access, a tick or the host: the raised value
recorded, unless a value is recorded already, which never changes; the rest is FAULT_STATE (00_scope.md R13; 10_state.md R45;
60_exceptions.md R312). -/
def State.faulted (s : State) (faultState : FaultState) (f : Fault) : State :=
  { faultState f.record f.here with fault := some (s.fault.getD f.record) }

/-- What an outcome's fault records, if it is one. -/
def raised : Result → Option FaultRecord
  | .fault f => some f.record
  | _ => none

/-! ## The bus (20_memory.md R64 to R67) -/

/-- The byte memory holds at an address, whether or not the bus lets an access reach it. -/
def State.byteAt (s : State) (addr : Word) : Byte := Memory.get s.mem addr.toNat

/-- The state with one byte of memory stored; no other byte and no other state changes. -/
def State.putByte (s : State) (addr : Word) (v : Byte) : State :=
  { s with mem := Memory.set s.mem addr.toNat v }

/-- `raise BusFault(addr, kind)` (00_scope.md R13; 60_exceptions.md R311). -/
def raiseBus {α : Type} (addr : Word) (kind : AccessKind) (s : State) : Except Fault α :=
  .error (.busFault addr kind s)

/-- `raise DecodeFault(op, PC -_16 1)`: PC has been advanced past the opcode byte (46_daa_misc.md R297, R298;
60_exceptions.md R310). -/
def raiseDecode (op : Byte) (s : State) : Result := .fault (.decodeFault op (s.pc - 1) s)

/-- `read_byte(addr)`, for a fetch or for data (20_memory.md R64, R82). -/
def readByte (kind : AccessKind) (addr : Word) (s : State) : Except Fault Byte :=
  if isStorage addr then .ok (s.byteAt addr) else raiseBus addr kind s

/-- `write_byte(addr, v)` (20_memory.md R65). -/
def writeByte (addr : Word) (v : Byte) (s : State) : Except Fault State :=
  if isStorage addr then .ok (s.putByte addr v) else raiseBus addr .write s

/-- `read_word(addr)`: the byte at `addr`, then the byte at `addr +_16 1` (20_memory.md R66). -/
def readWord (addr : Word) (s : State) : Except Fault Word :=
  match readByte .read addr s with
  | .error f => .error f
  | .ok l =>
    match readByte .read (addr + 1) s with
    | .error f => .error f
    | .ok h => .ok (combine h l)

/-- `write_word(addr, v)`: the low byte at `addr`, then the high byte at `addr +_16 1`; if the second write faults the
first has been performed (20_memory.md R67). -/
def writeWord (addr : Word) (v : Word) (s : State) : Except Fault State :=
  match writeByte addr (lo v) s with
  | .error f => .error f
  | .ok s => writeByte (addr + 1) (hi v) s

/-! ## The stack (10_state.md R41; 20_memory.md R71) -/

/-- `SP <- SP -_16 2; MemWrite(SP, 2, v)` (20_memory.md R71; 45_stack.md R280). -/
def push (v : Word) (s : State) : Except Fault State :=
  writeWord (s.read16 .sp - 2) v (s.write16 .sp (s.read16 .sp - 2))

/-- `MemRead(SP, 2)`, then `SP <- SP +_16 2`: the word and the state after it (45_stack.md R281). -/
def pop (s : State) : Except Fault (Word × State) :=
  match readWord (s.read16 .sp) s with
  | .error f => .error f
  | .ok v => .ok (v, s.write16 .sp (s.read16 .sp + 2))

end Sys2Proof.Machine
end

