-- ==== Sys2Proof/Machine/Flags.lean ====
section
/-! DEFINITION. Every result and flag computation: the ALU of 41_arithmetic.md and 42_logic.md on the accumulator, the
increments, the 16-bit and SP-relative additions, the rotate and shift data paths of 43_rotate_shift_bit.md, and DAA
(46_daa_misc.md R290). -/

namespace Sys2Proof.Machine

/-! ## Carries and borrows (41_arithmetic.md R170 to R173) -/

/-- `b2i(p)` as an 8-bit value (00_scope.md R10). -/
def bitByte (v : Bool) : Byte := if v then 1 else 0

/-- Carry out of bit 3 of `a + b + cin` (41_arithmetic.md R171). -/
def halfCarry (a b : Byte) (cin : Bool) : Bool := decide (a.toNat % 16 + b.toNat % 16 + cin.toNat > 0xF)

/-- Carry out of bit 7 of `a + b + cin` (41_arithmetic.md R171). -/
def fullCarry (a b : Byte) (cin : Bool) : Bool := decide (a.toNat + b.toNat + cin.toNat > 0xFF)

/-- Borrow out of bit 3 of `a - b - cin` (41_arithmetic.md R173). -/
def halfBorrow (a b : Byte) (cin : Bool) : Bool := decide (a.toNat % 16 < b.toNat % 16 + cin.toNat)

/-- Borrow out of bit 7 of `a - b - cin` (41_arithmetic.md R173). -/
def fullBorrow (a b : Byte) (cin : Bool) : Bool := decide (a.toNat < b.toNat + cin.toNat)

/-! ## The accumulator's operations -/

/-- `ADC` with carry-in `cin`; `ADD` is the case `cin = 0` (41_arithmetic.md R170, R171). -/
def aluAdd (b : Byte) (cin : Bool) (s : State) : State :=
  let a := s.read8 .a
  let r := a + b + bitByte cin
  (s.write8 .a r).writeFlags (r == 0) false (halfCarry a b cin) (fullCarry a b cin)

/-- The flags of `a - b - cin`, A not written (41_arithmetic.md R172 to R174). -/
def aluCompare (b : Byte) (cin : Bool) (s : State) : State :=
  let a := s.read8 .a
  s.writeFlags (a - b - bitByte cin == 0) true (halfBorrow a b cin) (fullBorrow a b cin)

/-- `SBC` with carry-in `cin`; `SUB` is the case `cin = 0` (41_arithmetic.md R172, R173). -/
def aluSub (b : Byte) (cin : Bool) (s : State) : State :=
  (aluCompare b cin s).write8 .a (s.read8 .a - b - bitByte cin)

/-- `AND` (42_logic.md R200). -/
def aluAnd (b : Byte) (s : State) : State :=
  let r := s.read8 .a &&& b
  (s.write8 .a r).writeFlags (r == 0) false true false

/-- `OR` (42_logic.md R201). -/
def aluOr (b : Byte) (s : State) : State :=
  let r := s.read8 .a ||| b
  (s.write8 .a r).writeFlags (r == 0) false false false

/-- `XOR` (42_logic.md R202). -/
def aluXor (b : Byte) (s : State) : State :=
  let r := s.read8 .a ^^^ b
  (s.write8 .a r).writeFlags (r == 0) false false false

/-- The flags of `INC r8` on the old value `v`; C is kept (41_arithmetic.md R180). -/
def incFlags (v : Byte) (s : State) : State :=
  ((s.writeFlag .z (v == 0xFF)).writeFlag .n false).writeFlag .h (v &&& 0x0F == 0x0F)

/-- The flags of `DEC r8` on the old value `v`; C is kept (41_arithmetic.md R182). -/
def decFlags (v : Byte) (s : State) : State :=
  ((s.writeFlag .z (v == 0x01)).writeFlag .n true).writeFlag .h (v &&& 0x0F == 0x00)

/-- `ADD HL,r16` with the addend `r`; Z is kept (41_arithmetic.md R184). -/
def addToHl (r : Word) (s : State) : State :=
  let h := s.read16 .hl
  (((s.write16 .hl (h + r)).writeFlag .n false).writeFlag .h
    (decide (h.toNat % 0x1000 + r.toNat % 0x1000 > 0xFFF))).writeFlag .c (decide (h.toNat + r.toNat > 0xFFFF))

/-- The flags of the SP-relative forms: Z and N cleared, H and C from the low byte of SP plus the raw operand byte
(40_data_movement.md R156, R157; 90_conflicts.md C1). -/
def spOffsetFlags (sp : Word) (e8 : Byte) (s : State) : State :=
  s.writeFlags false false (halfCarry (lo sp) e8 false) (fullCarry (lo sp) e8 false)

/-! ## Rotates, shifts and single bits (43_rotate_shift_bit.md) -/

/-- A shifter's result: the byte, and the bit shifted or rotated out. -/
structure Shifted where
  /-- The new byte. -/
  value : Byte
  /-- The new C. -/
  carry : Bool
deriving DecidableEq, Repr

/-- One position left, `low` shifted into bit 0: `{ v[6:0], low }`, C from bit 7 (43_rotate_shift_bit.md R217). -/
def shiftLeftIn (v : Byte) (low : Bool) : Shifted := ⟨v <<< 1 ||| bitByte low, v.getLsbD 7⟩

/-- One position right, `high` shifted into bit 7: `{ high, v[7:1] }`, C from bit 0 (43_rotate_shift_bit.md R218). -/
def shiftRightIn (v : Byte) (high : Bool) : Shifted := ⟨v >>> 1 ||| bitByte high <<< 7, v.getLsbD 0⟩

/-- Rotate left circular (43_rotate_shift_bit.md R215, R219). -/
def rotLeft (v : Byte) : Shifted := shiftLeftIn v (v.getLsbD 7)

/-- Rotate right circular (43_rotate_shift_bit.md R216, R220). -/
def rotRight (v : Byte) : Shifted := shiftRightIn v (v.getLsbD 0)

/-- Exchange the nibbles, C cleared (43_rotate_shift_bit.md R225). -/
def swapNibbles (v : Byte) : Shifted := ⟨v <<< 4 ||| v >>> 4, false⟩

/-- The end of an accumulator rotate: A, then Z, N, H cleared and C (43_rotate_shift_bit.md R215 to R218). -/
def accRotate (r : Shifted) (s : State) : State :=
  (s.write8 .a r.value).writeFlags false false false r.carry

/-- The flags of `RotTail(r, c)` (43_rotate_shift_bit.md section 2). -/
def rotTailFlags (r : Shifted) (s : State) : State := s.writeFlags (r.value == 0) false false r.carry

/-- The flags of `BIT n` on the operand `v`; C is kept (43_rotate_shift_bit.md R227). -/
def bitFlags (n : BitVec 3) (v : Byte) (s : State) : State :=
  ((s.writeFlag .z (!v.getLsbD n.toNat)).writeFlag .n false).writeFlag .h true

/-- `v & ~(1 << n)` (43_rotate_shift_bit.md R228). -/
def clearBit (n : BitVec 3) (v : Byte) : Byte := v &&& ~~~(1#8 <<< n.toNat)

/-- `v | (1 << n)` (43_rotate_shift_bit.md R229). -/
def setBit (n : BitVec 3) (v : Byte) : Byte := v ||| 1#8 <<< n.toNat

/-! ## Decimal adjust (46_daa_misc.md R290) -/

/-- The low adjustment of `DAA` applies: H, or after an addition a low nibble above 9. -/
def daaLow (a : Byte) (n h : Bool) : Bool := h || (!n && decide ((a &&& 0x0F).toNat > 9))

/-- The high adjustment of `DAA` applies: C, or after an addition A above 0x99. -/
def daaHigh (a : Byte) (n c : Bool) : Bool := c || (!n && decide (a.toNat > 0x99))

/-- `adj` of `DAA`: 0x06 and 0x60, each where it applies. -/
def daaAdjust (a : Byte) (n h c : Bool) : Byte :=
  (if daaLow a n h then 0x06 else 0x00) ||| (if daaHigh a n c then 0x60 else 0x00)

/-- The value `DAA` leaves in A: `adj` added after an addition, subtracted after a subtraction. -/
def daaValue (a : Byte) (n h c : Bool) : Byte :=
  if n then a - daaAdjust a n h c else a + daaAdjust a n h c

end Sys2Proof.Machine
end

