-- ==== Sys2Proof/Machine/Operands.lean ====
section
/-! DEFINITION. Every operand form: the R8, R16, R16MEM, R16STK selectors as registers or memory (10_state.md R30 to
R33), the conditions (00_scope.md R14) and the RST vector (10_state.md R35). -/

namespace Sys2Proof.Machine

/-- The register an R8 selector names; none for the byte of memory at HL (10_state.md R30). -/
def regOfR8 : R8 → Option Reg8
  | .b => some .b
  | .c => some .c
  | .d => some .d
  | .e => some .e
  | .h => some .h
  | .l => some .l
  | .hlMem => none
  | .a => some .a

/-- Reading `r8[i]`: a register, or `MemRead(HL, 1)` (00_scope.md R11). -/
def readR8 (i : R8) (s : State) : Except Fault Byte :=
  match regOfR8 i with
  | some r => .ok (s.read8 r)
  | none => readByte .read (s.read16 .hl) s

/-- Writing `r8[i] <- v`: a register, or `MemWrite(HL, 1, v)` (00_scope.md R11). -/
def writeR8 (i : R8) (v : Byte) (s : State) : Except Fault State :=
  match regOfR8 i with
  | some r => .ok (s.write8 r v)
  | none => writeByte (s.read16 .hl) v s

/-- The slot an R16 selector names (10_state.md R31). -/
def slotOfR16 : R16 → Reg16
  | .bc => .bc
  | .de => .de
  | .hl => .hl
  | .sp => .sp

/-- The slot an R16STK selector names (10_state.md R33). -/
def slotOfR16Stk : R16Stk → Reg16
  | .bc => .bc
  | .de => .de
  | .hl => .hl
  | .af => .af

/-- The address an R16MEM selector gives: BC, DE, or HL as it stands before its change (10_state.md R32;
40_data_movement.md R146). -/
def addrOfR16Mem (p : R16Mem) (s : State) : Word :=
  match p with
  | .bc => s.read16 .bc
  | .de => s.read16 .de
  | .hlInc => s.read16 .hl
  | .hlDec => s.read16 .hl

/-- The side effect of an R16MEM selector, after the access: HL +_16 1, HL -_16 1, or none (10_state.md R32;
40_data_movement.md R146). -/
def stepR16Mem (p : R16Mem) (s : State) : State :=
  match p with
  | .bc => s
  | .de => s
  | .hlInc => s.write16 .hl (s.read16 .hl + 1)
  | .hlDec => s.write16 .hl (s.read16 .hl - 1)

/-- `cond(cc)` (00_scope.md R14). -/
def condHolds (cc : Cond) (s : State) : Bool :=
  match cc with
  | .nz => !s.readFlag .z
  | .z => s.readFlag .z
  | .nc => !s.readFlag .c
  | .c => s.readFlag .c

/-- The RST target of a 3-bit literal, `8 * t` (10_state.md R35; 44_control_flow.md R260). -/
def rstTarget (t : BitVec 3) : Word := t.zeroExtend 16 * 8

end Sys2Proof.Machine
end

