-- ==== Sys2Proof/Machine/Arithmetic.lean ====
section
/-! DEFINITION. The 8-bit and 16-bit arithmetic instructions (41_arithmetic.md). -/

namespace Sys2Proof.Machine

/-- `ADD A,r8` (41_arithmetic.md R170). -/
def execAddAR8 (r : R8) (s : State) : Result := andThen (readR8 r s) fun v => .next (aluAdd v false s)

/-- `ADC A,r8` (41_arithmetic.md R171). -/
def execAdcAR8 (r : R8) (s : State) : Result := andThen (readR8 r s) fun v => .next (aluAdd v (s.readFlag .c) s)

/-- `SUB A,r8` (41_arithmetic.md R172). -/
def execSubAR8 (r : R8) (s : State) : Result := andThen (readR8 r s) fun v => .next (aluSub v false s)

/-- `SBC A,r8` (41_arithmetic.md R173). -/
def execSbcAR8 (r : R8) (s : State) : Result := andThen (readR8 r s) fun v => .next (aluSub v (s.readFlag .c) s)

/-- `CP A,r8`: the flags of `SUB`, A kept (41_arithmetic.md R174). -/
def execCpAR8 (r : R8) (s : State) : Result := andThen (readR8 r s) fun v => .next (aluCompare v false s)

/-- `ADD A,imm8` (41_arithmetic.md R175). -/
def execAddAImm8 (imm8 : Byte) (s : State) : Result := .next (aluAdd imm8 false s)

/-- `ADC A,imm8` (41_arithmetic.md R176). -/
def execAdcAImm8 (imm8 : Byte) (s : State) : Result := .next (aluAdd imm8 (s.readFlag .c) s)

/-- `SUB A,imm8` (41_arithmetic.md R177). -/
def execSubAImm8 (imm8 : Byte) (s : State) : Result := .next (aluSub imm8 false s)

/-- `SBC A,imm8` (41_arithmetic.md R178). -/
def execSbcAImm8 (imm8 : Byte) (s : State) : Result := .next (aluSub imm8 (s.readFlag .c) s)

/-- `CP A,imm8` (41_arithmetic.md R179). -/
def execCpAImm8 (imm8 : Byte) (s : State) : Result := .next (aluCompare imm8 false s)

/-- `INC r8` (41_arithmetic.md R180). -/
def execIncR8 (dst : R8) (s : State) : Result :=
  andThen (readR8 dst s) fun v => andThen (writeR8 dst (v + 1) s) fun s => .next (incFlags v s)

/-- `INC (HL)` (41_arithmetic.md R181). -/
def execIncHl (s : State) : Result :=
  andThen (readByte .read (s.read16 .hl) s) fun v =>
  andThen (writeByte (s.read16 .hl) (v + 1) s) fun s => .next (incFlags v s)

/-- `DEC r8` (41_arithmetic.md R182). -/
def execDecR8 (dst : R8) (s : State) : Result :=
  andThen (readR8 dst s) fun v => andThen (writeR8 dst (v - 1) s) fun s => .next (decFlags v s)

/-- `DEC (HL)` (41_arithmetic.md R183). -/
def execDecHl (s : State) : Result :=
  andThen (readByte .read (s.read16 .hl) s) fun v =>
  andThen (writeByte (s.read16 .hl) (v - 1) s) fun s => .next (decFlags v s)

/-- `ADD HL,r16` (41_arithmetic.md R184). -/
def execAddHlR16 (p : R16) (s : State) : Result := .next (addToHl (s.read16 (slotOfR16 p)) s)

/-- `INC r16` (41_arithmetic.md R185). -/
def execIncR16 (p : R16) (s : State) : Result :=
  .next (s.write16 (slotOfR16 p) (s.read16 (slotOfR16 p) + 1))

/-- `DEC r16` (41_arithmetic.md R186). -/
def execDecR16 (p : R16) (s : State) : Result :=
  .next (s.write16 (slotOfR16 p) (s.read16 (slotOfR16 p) - 1))

end Sys2Proof.Machine
end

