-- ==== Sys2Proof/Machine/ControlFlow.lean ====
section
/-! DEFINITION. Control flow and the interrupt-enable instructions (44_control_flow.md). PC already holds the address of
the byte after the instruction (10_state.md R37, R38). -/

namespace Sys2Proof.Machine

/-- `PC <- target`. -/
def jumpTo (target : Word) (s : State) : State := s.write16 .pc target

/-- Push PC, then `PC <- target` (44_control_flow.md R255). -/
def callTo (target : Word) (s : State) : Result :=
  andThen (push (s.read16 .pc) s) fun s => .next (jumpTo target s)

/-- Pop PC, then go on as `k` says (44_control_flow.md R257, R258). -/
def returnThen (k : State → State) (s : State) : Result :=
  andThen (pop s) fun r => .next (k (jumpTo r.1 r.2))

/-- `JR e8` (44_control_flow.md R250). -/
def execJrE8 (e8 : Byte) (s : State) : Result := .next (jumpTo (s.read16 .pc + sext16 e8) s)

/-- `JR cc,e8` (44_control_flow.md R251). -/
def execJrCcE8 (cc : Cond) (e8 : Byte) (s : State) : Result :=
  if condHolds cc s then .next (jumpTo (s.read16 .pc + sext16 e8) s) else .next s

/-- `JP a16` (44_control_flow.md R252). -/
def execJpA16 (a16 : Word) (s : State) : Result := .next (jumpTo a16 s)

/-- `JP cc,a16` (44_control_flow.md R253). -/
def execJpCcA16 (cc : Cond) (a16 : Word) (s : State) : Result :=
  if condHolds cc s then .next (jumpTo a16 s) else .next s

/-- `JP HL`: the address HL holds, no memory read (44_control_flow.md R254). -/
def execJpHl (s : State) : Result := .next (jumpTo (s.read16 .hl) s)

/-- `CALL a16` (44_control_flow.md R255). -/
def execCallA16 (a16 : Word) (s : State) : Result := callTo a16 s

/-- `CALL cc,a16` (44_control_flow.md R256). -/
def execCallCcA16 (cc : Cond) (a16 : Word) (s : State) : Result :=
  if condHolds cc s then callTo a16 s else .next s

/-- `RET` (44_control_flow.md R257). -/
def execRet (s : State) : Result := returnThen id s

/-- `RETI`: `RET`, then `IME <- 1` (44_control_flow.md R258). -/
def execReti (s : State) : Result := returnThen (fun s => s.writeIme true) s

/-- `RET cc` (44_control_flow.md R259). -/
def execRetCc (cc : Cond) (s : State) : Result :=
  if condHolds cc s then returnThen id s else .next s

/-- `RST vec`: a call of the fixed address `8 * t` (44_control_flow.md R260). -/
def execRstVec (t : BitVec 3) (s : State) : Result := callTo (rstTarget t) s

/-- `DI` (44_control_flow.md R261). -/
def execDi (s : State) : Result := .next (s.writeIme false)

/-- `EI`: set within the same tick (44_control_flow.md R262). -/
def execEi (s : State) : Result := .next (s.writeIme true)

end Sys2Proof.Machine
end

