-- ==== Sys2Proof/Machine/DataMovement.lean ====
section
/-! DEFINITION. The data movement instructions (40_data_movement.md). PC already points past the instruction when a
meaning starts (10_state.md R37). -/

namespace Sys2Proof.Machine

/-- `LD r8,r8'` (40_data_movement.md R140). -/
def execLdR8R8 (dst r : R8) (s : State) : Result :=
  andThen (readR8 r s) fun v => done (writeR8 dst v s)

/-- `LD r8,(HL)` (40_data_movement.md R141). -/
def execLdR8Hl (dst : R8) (s : State) : Result :=
  andThen (readByte .read (s.read16 .hl) s) fun v => done (writeR8 dst v s)

/-- `LD (HL),r8` (40_data_movement.md R142). -/
def execLdHlR8 (r : R8) (s : State) : Result :=
  andThen (readR8 r s) fun v => done (writeByte (s.read16 .hl) v s)

/-- `LD r8,imm8` (40_data_movement.md R143). -/
def execLdR8Imm8 (dst : R8) (imm8 : Byte) (s : State) : Result := done (writeR8 dst imm8 s)

/-- `LD (HL),imm8` (40_data_movement.md R144). -/
def execLdHlImm8 (imm8 : Byte) (s : State) : Result := done (writeByte (s.read16 .hl) imm8 s)

/-- `LD r16,imm16` (40_data_movement.md R145). -/
def execLdR16Imm16 (p : R16) (imm16 : Word) (s : State) : Result := .next (s.write16 (slotOfR16 p) imm16)

/-- `LD (r16mem),A`: the store, then the change of HL (40_data_movement.md R146). -/
def execLdR16MemA (p : R16Mem) (s : State) : Result :=
  andThen (writeByte (addrOfR16Mem p s) (s.read8 .a) s) fun s => .next (stepR16Mem p s)

/-- `LD A,(r16mem)`: the load, then the change of HL (40_data_movement.md R147). -/
def execLdAR16Mem (p : R16Mem) (s : State) : Result :=
  andThen (readByte .read (addrOfR16Mem p s) s) fun v => .next (stepR16Mem p (s.write8 .a v))

/-- `LDH (a8),A` (40_data_movement.md R148). -/
def execLdhA8A (a8 : Byte) (s : State) : Result := done (writeByte (highAddr a8) (s.read8 .a) s)

/-- `LDH A,(a8)` (40_data_movement.md R149). -/
def execLdhAA8 (a8 : Byte) (s : State) : Result :=
  andThen (readByte .read (highAddr a8) s) fun v => .next (s.write8 .a v)

/-- `LDH (C),A` (40_data_movement.md R150). -/
def execLdhCA (s : State) : Result := done (writeByte (highAddr (s.read8 .c)) (s.read8 .a) s)

/-- `LDH A,(C)` (40_data_movement.md R151). -/
def execLdhAC (s : State) : Result :=
  andThen (readByte .read (highAddr (s.read8 .c)) s) fun v => .next (s.write8 .a v)

/-- `LD (a16),SP` (40_data_movement.md R152). -/
def execLdA16Sp (a16 : Word) (s : State) : Result := done (writeWord a16 (s.read16 .sp) s)

/-- `LD (a16),A` (40_data_movement.md R153). -/
def execLdA16A (a16 : Word) (s : State) : Result := done (writeByte a16 (s.read8 .a) s)

/-- `LD A,(a16)` (40_data_movement.md R154). -/
def execLdAA16 (a16 : Word) (s : State) : Result :=
  andThen (readByte .read a16 s) fun v => .next (s.write8 .a v)

/-- `LD SP,HL` (40_data_movement.md R155). -/
def execLdSpHl (s : State) : Result := .next (s.write16 .sp (s.read16 .hl))

/-- `LD HL,SP+e8` (40_data_movement.md R156). -/
def execLdHlSpE8 (e8 : Byte) (s : State) : Result :=
  .next (spOffsetFlags (s.read16 .sp) e8 (s.write16 .hl (s.read16 .sp + sext16 e8)))

/-- `ADD SP,e8` (40_data_movement.md R157). -/
def execAddSpE8 (e8 : Byte) (s : State) : Result :=
  .next (spOffsetFlags (s.read16 .sp) e8 (s.write16 .sp (s.read16 .sp + sext16 e8)))

end Sys2Proof.Machine
end

