-- ==== Sys2Proof/Machine/Logic.lean ====
section
/-! DEFINITION. The bitwise logic instructions (42_logic.md). -/

namespace Sys2Proof.Machine

/-- `AND A,r8` (42_logic.md R200). -/
def execAndAR8 (r : R8) (s : State) : Result := andThen (readR8 r s) fun v => .next (aluAnd v s)

/-- `OR A,r8` (42_logic.md R201). -/
def execOrAR8 (r : R8) (s : State) : Result := andThen (readR8 r s) fun v => .next (aluOr v s)

/-- `XOR A,r8` (42_logic.md R202). -/
def execXorAR8 (r : R8) (s : State) : Result := andThen (readR8 r s) fun v => .next (aluXor v s)

/-- `AND A,imm8` (42_logic.md R203). -/
def execAndAImm8 (imm8 : Byte) (s : State) : Result := .next (aluAnd imm8 s)

/-- `OR A,imm8` (42_logic.md R204). -/
def execOrAImm8 (imm8 : Byte) (s : State) : Result := .next (aluOr imm8 s)

/-- `XOR A,imm8` (42_logic.md R205). -/
def execXorAImm8 (imm8 : Byte) (s : State) : Result := .next (aluXor imm8 s)

/-- `CPL`: A inverted, N and H set, Z and C kept (42_logic.md R206). -/
def execCpl (s : State) : Result :=
  .next (((s.write8 .a (~~~(s.read8 .a))).writeFlag .n true).writeFlag .h true)

end Sys2Proof.Machine
end

