-- ==== Sys2Proof/Machine/Misc.lean ====
section
/-! DEFINITION. DAA, the remaining single-byte instructions, and the bytes that are no instruction (46_daa_misc.md). -/

namespace Sys2Proof.Machine

/-- `DAA`: A and the flags as they stood going in decide; N kept, H cleared, C never cleared (46_daa_misc.md R290). -/
def execDaa (s : State) : Result :=
  let a := s.read8 .a
  let n := s.readFlag .n
  let h := s.readFlag .h
  let c := s.readFlag .c
  let r := daaValue a n h c
  .next ((((s.write8 .a r).writeFlag .z (r == 0)).writeFlag .h false).writeFlag .c (daaHigh a n c))

/-- `NOP` (46_daa_misc.md R292). -/
def execNop (s : State) : Result := .next s

/-- `SCF` (46_daa_misc.md R293). -/
def execScf (s : State) : Result :=
  .next (((s.writeFlag .n false).writeFlag .h false).writeFlag .c true)

/-- `CCF` (46_daa_misc.md R294). -/
def execCcf (s : State) : Result :=
  .next (((s.writeFlag .n false).writeFlag .h false).writeFlag .c (!s.readFlag .c))

/-- `HALT`: `halted <- 1` (46_daa_misc.md R295). -/
def execHalt (s : State) : Result := .next (s.writeHalted true)

/-- 0x10, `STOP` on real silicon: no pattern, so DecodeFault (46_daa_misc.md R297). -/
def execStop (s : State) : Result := raiseDecode 0x10 s

/-- Illegal opcode 0xD3 (46_daa_misc.md R298). -/
def execIllegalD3 (s : State) : Result := raiseDecode 0xD3 s

/-- Illegal opcode 0xDB (46_daa_misc.md R298). -/
def execIllegalDB (s : State) : Result := raiseDecode 0xDB s

/-- Illegal opcode 0xDD (46_daa_misc.md R298). -/
def execIllegalDD (s : State) : Result := raiseDecode 0xDD s

/-- Illegal opcode 0xE3 (46_daa_misc.md R298). -/
def execIllegalE3 (s : State) : Result := raiseDecode 0xE3 s

/-- Illegal opcode 0xE4 (46_daa_misc.md R298). -/
def execIllegalE4 (s : State) : Result := raiseDecode 0xE4 s

/-- Illegal opcode 0xEB (46_daa_misc.md R298). -/
def execIllegalEB (s : State) : Result := raiseDecode 0xEB s

/-- Illegal opcode 0xEC (46_daa_misc.md R298). -/
def execIllegalEC (s : State) : Result := raiseDecode 0xEC s

/-- Illegal opcode 0xED (46_daa_misc.md R298). -/
def execIllegalED (s : State) : Result := raiseDecode 0xED s

/-- Illegal opcode 0xF4 (46_daa_misc.md R298). -/
def execIllegalF4 (s : State) : Result := raiseDecode 0xF4 s

/-- Illegal opcode 0xFC (46_daa_misc.md R298). -/
def execIllegalFC (s : State) : Result := raiseDecode 0xFC s

/-- Illegal opcode 0xFD (46_daa_misc.md R298). -/
def execIllegalFD (s : State) : Result := raiseDecode 0xFD s

end Sys2Proof.Machine
end

