-- ==== Sys2Proof/WellFormed.lean ====
section
/-! DEFINITION. Which terms of `Instr` are instructions the decoder can hand out: the R8 selectors that the spec
restricts to the seven registers are not `hlMem`, and the prefix row is not an instruction by itself. -/

namespace Sys2Proof

/-- The selector names a register: "R8 selectors other than 6" (40_data_movement.md R140). -/
def R8.isRegister : R8 → Bool
  | .hlMem => false
  | _ => true

/-- Well-formedness of an instruction. The checks: `INC r8`, `DEC r8`, `LD r8,imm8`, `LD r8,(HL)`, `LD (HL),r8`,
`LD r8,r8'` take registers only (41_arithmetic.md R180, R182; 40_data_movement.md R140 to R143); `PREFIX CB` is no
instruction by itself (43_rotate_shift_bit.md R232). Everything else is well formed. -/
def Instr.wf : Instr → Bool
  | .nop => true
  | .ldA16Sp _ => true
  | .stop => true
  | .jrE8 _ => true
  | .rlca => true
  | .rrca => true
  | .rla => true
  | .rra => true
  | .daa => true
  | .cpl => true
  | .scf => true
  | .ccf => true
  | .halt => true
  | .ldHlImm8 _ => true
  | .incHl => true
  | .decHl => true
  | .jrCcE8 _ _ => true
  | .ldR16Imm16 _ _ => true
  | .ldR16MemA _ => true
  | .ldAR16Mem _ => true
  | .incR16 _ => true
  | .decR16 _ => true
  | .addHlR16 _ => true
  | .incR8 dst => dst.isRegister
  | .decR8 dst => dst.isRegister
  | .ldR8Imm8 dst _ => dst.isRegister
  | .ldR8Hl dst => dst.isRegister
  | .ldHlR8 r => r.isRegister
  | .ldR8R8 dst r => dst.isRegister && r.isRegister
  | .addAR8 _ => true
  | .adcAR8 _ => true
  | .subAR8 _ => true
  | .sbcAR8 _ => true
  | .andAR8 _ => true
  | .xorAR8 _ => true
  | .orAR8 _ => true
  | .cpAR8 _ => true
  | .addAImm8 _ => true
  | .adcAImm8 _ => true
  | .subAImm8 _ => true
  | .sbcAImm8 _ => true
  | .andAImm8 _ => true
  | .xorAImm8 _ => true
  | .orAImm8 _ => true
  | .cpAImm8 _ => true
  | .retCc _ => true
  | .jpCcA16 _ _ => true
  | .callCcA16 _ _ => true
  | .jpA16 _ => true
  | .ret => true
  | .reti => true
  | .callA16 _ => true
  | .prefixCb _ => false
  | .jpHl => true
  | .rstVec _ => true
  | .popR16stk _ => true
  | .pushR16stk _ => true
  | .ldhA8A _ => true
  | .ldhCA => true
  | .ldA16A _ => true
  | .ldhAA8 _ => true
  | .ldhAC => true
  | .ldAA16 _ => true
  | .addSpE8 _ => true
  | .ldHlSpE8 _ => true
  | .ldSpHl => true
  | .di => true
  | .ei => true
  | .illegalD3 => true
  | .illegalDB => true
  | .illegalDD => true
  | .illegalE3 => true
  | .illegalE4 => true
  | .illegalEB => true
  | .illegalEC => true
  | .illegalED => true
  | .illegalF4 => true
  | .illegalFC => true
  | .illegalFD => true
  | .rlcR8 _ => true
  | .rrcR8 _ => true
  | .rlR8 _ => true
  | .rrR8 _ => true
  | .slaR8 _ => true
  | .sraR8 _ => true
  | .swapR8 _ => true
  | .srlR8 _ => true
  | .bitNR8 _ _ => true
  | .resNR8 _ _ => true
  | .setNR8 _ _ => true

end Sys2Proof
end

