-- ==== Sys2Proof/Decode.lean ====
section
/-! DEFINITION. The decoder of 30_encoding.md: the selector tables, the opcode patterns of R109 in the priority order
of R103, the CB page of R113, decoding of a list of bytes, and the encoder written from the same tables. -/

namespace Sys2Proof

/-! ## Selector tables (10_state.md R30 to R34) -/

/-- R8 by its 3-bit value (10_state.md R30). -/
def R8.ofBits (v : BitVec 3) : R8 :=
  match v with
  | 0 => .b | 1 => .c | 2 => .d | 3 => .e | 4 => .h | 5 => .l | 6 => .hlMem | 7 => .a

/-- The 3-bit value of R8 (10_state.md R30). -/
def R8.bits : R8 → BitVec 3
  | .b => 0 | .c => 1 | .d => 2 | .e => 3 | .h => 4 | .l => 5 | .hlMem => 6 | .a => 7

/-- R16 by its 2-bit value (10_state.md R31). -/
def R16.ofBits (v : BitVec 2) : R16 :=
  match v with
  | 0 => .bc | 1 => .de | 2 => .hl | 3 => .sp

/-- The 2-bit value of R16 (10_state.md R31). -/
def R16.bits : R16 → BitVec 2
  | .bc => 0 | .de => 1 | .hl => 2 | .sp => 3

/-- R16MEM by its 2-bit value (10_state.md R32). -/
def R16Mem.ofBits (v : BitVec 2) : R16Mem :=
  match v with
  | 0 => .bc | 1 => .de | 2 => .hlInc | 3 => .hlDec

/-- The 2-bit value of R16MEM (10_state.md R32). -/
def R16Mem.bits : R16Mem → BitVec 2
  | .bc => 0 | .de => 1 | .hlInc => 2 | .hlDec => 3

/-- R16STK by its 2-bit value (10_state.md R33). -/
def R16Stk.ofBits (v : BitVec 2) : R16Stk :=
  match v with
  | 0 => .bc | 1 => .de | 2 => .hl | 3 => .af

/-- The 2-bit value of R16STK (10_state.md R33). -/
def R16Stk.bits : R16Stk → BitVec 2
  | .bc => 0 | .de => 1 | .hl => 2 | .af => 3

/-- COND by its 2-bit value (10_state.md R34). -/
def Cond.ofBits (v : BitVec 2) : Cond :=
  match v with
  | 0 => .nz | 1 => .z | 2 => .nc | 3 => .c

/-- The 2-bit value of COND (10_state.md R34). -/
def Cond.bits : Cond → BitVec 2
  | .nz => 0 | .z => 1 | .nc => 2 | .c => 3

/-! ## Fields of a byte (30_encoding.md R102, R113) -/

/-- Bits 5:3 of an opcode byte: `a`, the CB page's `index`. -/
def fieldA (op : Byte) : BitVec 3 := op.extractLsb' 3 3

/-- Bits 2:0 of an opcode byte: `b`, the CB page's `target`. -/
def fieldB (op : Byte) : BitVec 3 := op.extractLsb' 0 3

/-- Bits 5:4 of an opcode byte: `y`. -/
def fieldY (op : Byte) : BitVec 2 := op.extractLsb' 4 2

/-- Bits 4:3 of an opcode byte: `j`. -/
def fieldJ (op : Byte) : BitVec 2 := op.extractLsb' 3 2

/-- Bits 7:6 of an opcode byte: `block`, the CB page's `group`. -/
def fieldBlock (op : Byte) : BitVec 2 := op.extractLsb' 6 2

/-- A pattern test: the bits of `op` under `mask` are `pat` (30_encoding.md R120). -/
def fits (op mask pat : Byte) : Bool := op &&& mask == pat

/-! ## The first byte (30_encoding.md R101, R103, R109) -/

/-- What the first byte settles: the format of R101 with the instruction that the format's operand completes. -/
inductive Pattern where
  /-- Format OP: the instruction is complete. -/
  | op (i : Instr)
  /-- Format OP_IMM8: one operand byte follows. -/
  | opImm8 (k : Byte → Instr)
  /-- Format OP_IMM16: an operand word follows, low byte first (R106). -/
  | opImm16 (k : Word → Instr)
  /-- Format CB: a second opcode byte follows (R113). -/
  | cb

/-- Block 0 (op[7:6] = 00), literal bytes before wildcard patterns (30_encoding.md R103, R109). -/
def decodeBlock0 (op : Byte) : Option Pattern :=
  if op = 0x00 then some (.op .nop)
  else if op = 0x08 then some (.opImm16 .ldA16Sp)
  else if op = 0x10 then some (.op .stop)
  else if op = 0x18 then some (.opImm8 .jrE8)
  else if op = 0x07 then some (.op .rlca)
  else if op = 0x0F then some (.op .rrca)
  else if op = 0x17 then some (.op .rla)
  else if op = 0x1F then some (.op .rra)
  else if op = 0x27 then some (.op .daa)
  else if op = 0x2F then some (.op .cpl)
  else if op = 0x37 then some (.op .scf)
  else if op = 0x3F then some (.op .ccf)
  else if op = 0x34 then some (.op .incHl)
  else if op = 0x35 then some (.op .decHl)
  else if op = 0x36 then some (.opImm8 .ldHlImm8)
  else if fits op 0xE7 0x20 then some (.opImm8 (.jrCcE8 (Cond.ofBits (fieldJ op))))
  else if fits op 0xCF 0x01 then some (.opImm16 (.ldR16Imm16 (R16.ofBits (fieldY op))))
  else if fits op 0xCF 0x02 then some (.op (.ldR16MemA (R16Mem.ofBits (fieldY op))))
  else if fits op 0xCF 0x0A then some (.op (.ldAR16Mem (R16Mem.ofBits (fieldY op))))
  else if fits op 0xCF 0x03 then some (.op (.incR16 (R16.ofBits (fieldY op))))
  else if fits op 0xCF 0x0B then some (.op (.decR16 (R16.ofBits (fieldY op))))
  else if fits op 0xCF 0x09 then some (.op (.addHlR16 (R16.ofBits (fieldY op))))
  else if fits op 0xC7 0x04 then some (.op (.incR8 (R8.ofBits (fieldA op))))
  else if fits op 0xC7 0x05 then some (.op (.decR8 (R8.ofBits (fieldA op))))
  else if fits op 0xC7 0x06 then some (.opImm8 (.ldR8Imm8 (R8.ofBits (fieldA op))))
  else none

/-- Block 1 (op[7:6] = 01): `HALT`, then the `(HL)` row and column, then `LD r8,r8'` (30_encoding.md R103, R109). -/
def decodeBlock1 (op : Byte) : Option Pattern :=
  if op = 0x76 then some (.op .halt)
  else if fits op 0xC7 0x46 then some (.op (.ldR8Hl (R8.ofBits (fieldA op))))
  else if fits op 0xF8 0x70 then some (.op (.ldHlR8 (R8.ofBits (fieldB op))))
  else if fits op 0xC0 0x40 then some (.op (.ldR8R8 (R8.ofBits (fieldA op)) (R8.ofBits (fieldB op))))
  else none

/-- Block 2 (op[7:6] = 10): the ALU operations on an R8 operand, by the index of 30_encoding.md R111. -/
def decodeBlock2 (op : Byte) : Option Pattern :=
  if fits op 0xF8 0x80 then some (.op (.addAR8 (R8.ofBits (fieldB op))))
  else if fits op 0xF8 0x88 then some (.op (.adcAR8 (R8.ofBits (fieldB op))))
  else if fits op 0xF8 0x90 then some (.op (.subAR8 (R8.ofBits (fieldB op))))
  else if fits op 0xF8 0x98 then some (.op (.sbcAR8 (R8.ofBits (fieldB op))))
  else if fits op 0xF8 0xA0 then some (.op (.andAR8 (R8.ofBits (fieldB op))))
  else if fits op 0xF8 0xA8 then some (.op (.xorAR8 (R8.ofBits (fieldB op))))
  else if fits op 0xF8 0xB0 then some (.op (.orAR8 (R8.ofBits (fieldB op))))
  else if fits op 0xF8 0xB8 then some (.op (.cpAR8 (R8.ofBits (fieldB op))))
  else none

/-- Block 3 (op[7:6] = 11): immediates, control flow, stack, high memory, the prefix and the eleven bytes without an
instruction (30_encoding.md R109, R114). -/
def decodeBlock3 (op : Byte) : Option Pattern :=
  if op = 0xC6 then some (.opImm8 .addAImm8)
  else if op = 0xCE then some (.opImm8 .adcAImm8)
  else if op = 0xD6 then some (.opImm8 .subAImm8)
  else if op = 0xDE then some (.opImm8 .sbcAImm8)
  else if op = 0xE6 then some (.opImm8 .andAImm8)
  else if op = 0xEE then some (.opImm8 .xorAImm8)
  else if op = 0xF6 then some (.opImm8 .orAImm8)
  else if op = 0xFE then some (.opImm8 .cpAImm8)
  else if op = 0xC3 then some (.opImm16 .jpA16)
  else if op = 0xC9 then some (.op .ret)
  else if op = 0xD9 then some (.op .reti)
  else if op = 0xCD then some (.opImm16 .callA16)
  else if op = 0xCB then some .cb
  else if op = 0xE9 then some (.op .jpHl)
  else if op = 0xE0 then some (.opImm8 .ldhA8A)
  else if op = 0xE2 then some (.op .ldhCA)
  else if op = 0xEA then some (.opImm16 .ldA16A)
  else if op = 0xF0 then some (.opImm8 .ldhAA8)
  else if op = 0xF2 then some (.op .ldhAC)
  else if op = 0xFA then some (.opImm16 .ldAA16)
  else if op = 0xE8 then some (.opImm8 .addSpE8)
  else if op = 0xF8 then some (.opImm8 .ldHlSpE8)
  else if op = 0xF9 then some (.op .ldSpHl)
  else if op = 0xF3 then some (.op .di)
  else if op = 0xFB then some (.op .ei)
  else if op = 0xD3 then some (.op .illegalD3)
  else if op = 0xDB then some (.op .illegalDB)
  else if op = 0xDD then some (.op .illegalDD)
  else if op = 0xE3 then some (.op .illegalE3)
  else if op = 0xE4 then some (.op .illegalE4)
  else if op = 0xEB then some (.op .illegalEB)
  else if op = 0xEC then some (.op .illegalEC)
  else if op = 0xED then some (.op .illegalED)
  else if op = 0xF4 then some (.op .illegalF4)
  else if op = 0xFC then some (.op .illegalFC)
  else if op = 0xFD then some (.op .illegalFD)
  else if fits op 0xE7 0xC0 then some (.op (.retCc (Cond.ofBits (fieldJ op))))
  else if fits op 0xE7 0xC2 then some (.opImm16 (.jpCcA16 (Cond.ofBits (fieldJ op))))
  else if fits op 0xE7 0xC4 then some (.opImm16 (.callCcA16 (Cond.ofBits (fieldJ op))))
  else if fits op 0xC7 0xC7 then some (.op (.rstVec (fieldA op)))
  else if fits op 0xCF 0xC1 then some (.op (.popR16stk (R16Stk.ofBits (fieldY op))))
  else if fits op 0xCF 0xC5 then some (.op (.pushR16stk (R16Stk.ofBits (fieldY op))))
  else none

/-- The first byte's pattern, by block (30_encoding.md R102, R108, R109). `none` would be a byte that no row matches;
there is none (R120), and no arm executes by default (46_daa_misc.md R299). -/
def decodeFirst (op : Byte) : Option Pattern :=
  match fieldBlock op with
  | 0 => decodeBlock0 op
  | 1 => decodeBlock1 op
  | 2 => decodeBlock2 op
  | 3 => decodeBlock3 op

/-- The CB page: the instruction that the second byte selects (30_encoding.md R113). -/
def decodeCb (cb : Byte) : Instr :=
  match fieldBlock cb with
  | 0 =>
    match fieldA cb with
    | 0 => .rlcR8 (R8.ofBits (fieldB cb))
    | 1 => .rrcR8 (R8.ofBits (fieldB cb))
    | 2 => .rlR8 (R8.ofBits (fieldB cb))
    | 3 => .rrR8 (R8.ofBits (fieldB cb))
    | 4 => .slaR8 (R8.ofBits (fieldB cb))
    | 5 => .sraR8 (R8.ofBits (fieldB cb))
    | 6 => .swapR8 (R8.ofBits (fieldB cb))
    | 7 => .srlR8 (R8.ofBits (fieldB cb))
  | 1 => .bitNR8 (fieldA cb) (R8.ofBits (fieldB cb))
  | 2 => .resNR8 (fieldA cb) (R8.ofBits (fieldB cb))
  | 3 => .setNR8 (fieldA cb) (R8.ofBits (fieldB cb))

/-! ## Bytes to an instruction -/

/-- Why a list of bytes is not an instruction. -/
inductive DecodeError where
  /-- The list ends before the instruction does. -/
  | truncated
  /-- The first byte matches no row. -/
  | noPattern (op : Byte)
deriving DecidableEq, Repr

/-- The decode procedure of 30_encoding.md R108 on a list of bytes: the instruction, and the bytes after it. -/
def decode : List Byte → Except DecodeError (Instr × List Byte)
  | [] => .error .truncated
  | op :: rest =>
    match decodeFirst op with
    | none => .error (.noPattern op)
    | some (.op i) => .ok (i, rest)
    | some (.opImm8 k) =>
      match rest with
      | n8 :: rest => .ok (k n8, rest)
      | [] => .error .truncated
    | some (.opImm16 k) =>
      match rest with
      | b1 :: b2 :: rest => .ok (k (Machine.combine b2 b1), rest)
      | _ => .error .truncated
    | some .cb =>
      match rest with
      | cb :: rest => .ok (decodeCb cb, rest)
      | [] => .error .truncated

/-- The three bytes of a table word: bit 0 is the least significant bit of the first byte; bits at or above `nbits`
are 0. -/
def tableBytes (nbits w : Nat) : List Byte :=
  let v := w % 2 ^ nbits
  [BitVec.ofNat 8 v, BitVec.ofNat 8 (v / 256), BitVec.ofNat 8 (v / 65536)]

/-- The instruction the decoder reads from a word numbered as spec/opcode_table.json numbers it. A CB instruction has
0xCB in bits 7:0 and the table row's byte in bits 15:8 (notes/assumptions/5.md). -/
def decodeTableWord (nbits w : Nat) : Option Instr :=
  match decode (tableBytes nbits w) with
  | .ok (i, _) => some i
  | .error _ => none

/-! ## The encoder (30_encoding.md R109, R113) -/

/-- `bb aaa ccc`: a byte of the (block, a, b) decomposition (30_encoding.md R102). -/
def byteBAB (block : BitVec 2) (a b : BitVec 3) : Byte := block ++ a ++ b

/-- `bb yy zzzz`: a byte of the (block, y, z) decomposition (30_encoding.md R102). -/
def byteBYZ (block y : BitVec 2) (z : BitVec 4) : Byte := block ++ y ++ z

/-- `iii jj bbb`: a byte of the (i, j, b) decomposition (30_encoding.md R102). -/
def byteIJB (i : BitVec 3) (j : BitVec 2) (b : BitVec 3) : Byte := i ++ j ++ b

/-- An opcode and an operand word, low byte first (30_encoding.md R101, R106). -/
def withWord (op : Byte) (w : Word) : List Byte := [op, Machine.lo w, Machine.hi w]

/-- The bytes of an instruction, lowest address first, written from the patterns of 30_encoding.md R109 and R113. -/
def encode : Instr → List Byte
  | .nop => [0x00]
  | .ldA16Sp a16 => withWord 0x08 a16
  | .stop => [0x10]
  | .jrE8 e8 => [0x18, e8]
  | .rlca => [0x07]
  | .rrca => [0x0F]
  | .rla => [0x17]
  | .rra => [0x1F]
  | .daa => [0x27]
  | .cpl => [0x2F]
  | .scf => [0x37]
  | .ccf => [0x3F]
  | .halt => [0x76]
  | .ldHlImm8 imm8 => [0x36, imm8]
  | .incHl => [0x34]
  | .decHl => [0x35]
  | .jrCcE8 cc e8 => [byteIJB 0b001 cc.bits 0b000, e8]
  | .ldR16Imm16 p imm16 => withWord (byteBYZ 0b00 p.bits 0b0001) imm16
  | .ldR16MemA p => [byteBYZ 0b00 p.bits 0b0010]
  | .ldAR16Mem p => [byteBYZ 0b00 p.bits 0b1010]
  | .incR16 p => [byteBYZ 0b00 p.bits 0b0011]
  | .decR16 p => [byteBYZ 0b00 p.bits 0b1011]
  | .addHlR16 p => [byteBYZ 0b00 p.bits 0b1001]
  | .incR8 dst => [byteBAB 0b00 dst.bits 0b100]
  | .decR8 dst => [byteBAB 0b00 dst.bits 0b101]
  | .ldR8Imm8 dst imm8 => [byteBAB 0b00 dst.bits 0b110, imm8]
  | .ldR8Hl dst => [byteBAB 0b01 dst.bits 0b110]
  | .ldHlR8 r => [byteBAB 0b01 0b110 r.bits]
  | .ldR8R8 dst r => [byteBAB 0b01 dst.bits r.bits]
  | .addAR8 r => [byteBAB 0b10 0 r.bits]
  | .adcAR8 r => [byteBAB 0b10 1 r.bits]
  | .subAR8 r => [byteBAB 0b10 2 r.bits]
  | .sbcAR8 r => [byteBAB 0b10 3 r.bits]
  | .andAR8 r => [byteBAB 0b10 4 r.bits]
  | .xorAR8 r => [byteBAB 0b10 5 r.bits]
  | .orAR8 r => [byteBAB 0b10 6 r.bits]
  | .cpAR8 r => [byteBAB 0b10 7 r.bits]
  | .addAImm8 imm8 => [byteBAB 0b11 0 0b110, imm8]
  | .adcAImm8 imm8 => [byteBAB 0b11 1 0b110, imm8]
  | .subAImm8 imm8 => [byteBAB 0b11 2 0b110, imm8]
  | .sbcAImm8 imm8 => [byteBAB 0b11 3 0b110, imm8]
  | .andAImm8 imm8 => [byteBAB 0b11 4 0b110, imm8]
  | .xorAImm8 imm8 => [byteBAB 0b11 5 0b110, imm8]
  | .orAImm8 imm8 => [byteBAB 0b11 6 0b110, imm8]
  | .cpAImm8 imm8 => [byteBAB 0b11 7 0b110, imm8]
  | .retCc cc => [byteIJB 0b110 cc.bits 0b000]
  | .jpCcA16 cc a16 => withWord (byteIJB 0b110 cc.bits 0b010) a16
  | .callCcA16 cc a16 => withWord (byteIJB 0b110 cc.bits 0b100) a16
  | .jpA16 a16 => withWord 0xC3 a16
  | .ret => [0xC9]
  | .reti => [0xD9]
  | .callA16 a16 => withWord 0xCD a16
  | .prefixCb cb => [0xCB, cb]
  | .jpHl => [0xE9]
  | .rstVec t => [byteBAB 0b11 t 0b111]
  | .popR16stk p => [byteBYZ 0b11 p.bits 0b0001]
  | .pushR16stk p => [byteBYZ 0b11 p.bits 0b0101]
  | .ldhA8A a8 => [0xE0, a8]
  | .ldhCA => [0xE2]
  | .ldA16A a16 => withWord 0xEA a16
  | .ldhAA8 a8 => [0xF0, a8]
  | .ldhAC => [0xF2]
  | .ldAA16 a16 => withWord 0xFA a16
  | .addSpE8 e8 => [0xE8, e8]
  | .ldHlSpE8 e8 => [0xF8, e8]
  | .ldSpHl => [0xF9]
  | .di => [0xF3]
  | .ei => [0xFB]
  | .illegalD3 => [0xD3]
  | .illegalDB => [0xDB]
  | .illegalDD => [0xDD]
  | .illegalE3 => [0xE3]
  | .illegalE4 => [0xE4]
  | .illegalEB => [0xEB]
  | .illegalEC => [0xEC]
  | .illegalED => [0xED]
  | .illegalF4 => [0xF4]
  | .illegalFC => [0xFC]
  | .illegalFD => [0xFD]
  | .rlcR8 t => [0xCB, byteBAB 0 0 t.bits]
  | .rrcR8 t => [0xCB, byteBAB 0 1 t.bits]
  | .rlR8 t => [0xCB, byteBAB 0 2 t.bits]
  | .rrR8 t => [0xCB, byteBAB 0 3 t.bits]
  | .slaR8 t => [0xCB, byteBAB 0 4 t.bits]
  | .sraR8 t => [0xCB, byteBAB 0 5 t.bits]
  | .swapR8 t => [0xCB, byteBAB 0 6 t.bits]
  | .srlR8 t => [0xCB, byteBAB 0 7 t.bits]
  | .bitNR8 n t => [0xCB, byteBAB 1 n t.bits]
  | .resNR8 n t => [0xCB, byteBAB 2 n t.bits]
  | .setNR8 n t => [0xCB, byteBAB 3 n t.bits]

end Sys2Proof
end

