-- ==== Sys2Proof/Machine/RotateShift.lean ====
section
/-! DEFINITION. Rotates, shifts and bit operations, and the CB prefix (43_rotate_shift_bit.md; 46_daa_misc.md R296). -/

namespace Sys2Proof.Machine

/-! ## Accumulator rotates (43_rotate_shift_bit.md R215 to R218) -/

/-- `RLCA` (43_rotate_shift_bit.md R215). -/
def execRlca (s : State) : Result := .next (accRotate (rotLeft (s.read8 .a)) s)

/-- `RRCA` (43_rotate_shift_bit.md R216). -/
def execRrca (s : State) : Result := .next (accRotate (rotRight (s.read8 .a)) s)

/-- `RLA` (43_rotate_shift_bit.md R217). -/
def execRla (s : State) : Result := .next (accRotate (shiftLeftIn (s.read8 .a) (s.readFlag .c)) s)

/-- `RRA` (43_rotate_shift_bit.md R218). -/
def execRra (s : State) : Result := .next (accRotate (shiftRightIn (s.read8 .a) (s.readFlag .c)) s)

/-! ## The CB page (43_rotate_shift_bit.md R219 to R229) -/

/-- The frame of a CB rotate or shift: read the operand, write the result back, then the flags of `RotTail`
(43_rotate_shift_bit.md section 2). -/
def rotOperand (t : R8) (f : Byte → Shifted) (s : State) : Result :=
  andThen (readR8 t s) fun v =>
  andThen (writeR8 t (f v).value s) fun s => .next (rotTailFlags (f v) s)

/-- `RLC r8` (43_rotate_shift_bit.md R219). -/
def execRlcR8 (t : R8) (s : State) : Result := rotOperand t rotLeft s

/-- `RRC r8` (43_rotate_shift_bit.md R220). -/
def execRrcR8 (t : R8) (s : State) : Result := rotOperand t rotRight s

/-- `RL r8` (43_rotate_shift_bit.md R221). -/
def execRlR8 (t : R8) (s : State) : Result := rotOperand t (fun v => shiftLeftIn v (s.readFlag .c)) s

/-- `RR r8` (43_rotate_shift_bit.md R222). -/
def execRrR8 (t : R8) (s : State) : Result := rotOperand t (fun v => shiftRightIn v (s.readFlag .c)) s

/-- `SLA r8` (43_rotate_shift_bit.md R223). -/
def execSlaR8 (t : R8) (s : State) : Result := rotOperand t (fun v => shiftLeftIn v false) s

/-- `SRA r8`: bit 7 kept (43_rotate_shift_bit.md R224). -/
def execSraR8 (t : R8) (s : State) : Result := rotOperand t (fun v => shiftRightIn v (v.getLsbD 7)) s

/-- `SWAP r8` (43_rotate_shift_bit.md R225). -/
def execSwapR8 (t : R8) (s : State) : Result := rotOperand t swapNibbles s

/-- `SRL r8` (43_rotate_shift_bit.md R226). -/
def execSrlR8 (t : R8) (s : State) : Result := rotOperand t (fun v => shiftRightIn v false) s

/-- `BIT n,r8`: the operand is read and not written (43_rotate_shift_bit.md R227). -/
def execBitNR8 (n : BitVec 3) (t : R8) (s : State) : Result :=
  andThen (readR8 t s) fun v => .next (bitFlags n v s)

/-- `RES n,r8` (43_rotate_shift_bit.md R228). -/
def execResNR8 (n : BitVec 3) (t : R8) (s : State) : Result :=
  andThen (readR8 t s) fun v => done (writeR8 t (clearBit n v) s)

/-- `SET n,r8` (43_rotate_shift_bit.md R229). -/
def execSetNR8 (n : BitVec 3) (t : R8) (s : State) : Result :=
  andThen (readR8 t s) fun v => done (writeR8 t (setBit n v) s)

/-- `PREFIX CB` with its second byte: the effect is that of the instruction the second byte selects, and the prefix has
none of its own (46_daa_misc.md R296; 30_encoding.md R113; 43_rotate_shift_bit.md R232). -/
def execPrefixCb (cb : Byte) (s : State) : Result :=
  let t := R8.ofBits (fieldB cb)
  match fieldBlock cb with
  | 0 =>
    match fieldA cb with
    | 0 => execRlcR8 t s
    | 1 => execRrcR8 t s
    | 2 => execRlR8 t s
    | 3 => execRrR8 t s
    | 4 => execSlaR8 t s
    | 5 => execSraR8 t s
    | 6 => execSwapR8 t s
    | 7 => execSrlR8 t s
  | 1 => execBitNR8 (fieldA cb) t s
  | 2 => execResNR8 (fieldA cb) t s
  | 3 => execSetNR8 (fieldA cb) t s

end Sys2Proof.Machine
end

