-- ==== Sys2Proof/Machine/Stack.lean ====
section
/-! DEFINITION. The stack instructions (45_stack.md). -/

namespace Sys2Proof.Machine

/-- `PUSH r16stk` (45_stack.md R280). -/
def execPushR16stk (p : R16Stk) (s : State) : Result := done (push (s.read16 (slotOfR16Stk p)) s)

/-- `POP r16stk`; a pop of AF drops bits 3:0 of the low byte (45_stack.md R281). -/
def execPopR16stk (p : R16Stk) (s : State) : Result :=
  andThen (pop s) fun r => .next (r.2.write16 (slotOfR16Stk p) r.1)

end Sys2Proof.Machine
end

