-- ==== Sys2Proof/Machine/Dispatch.lean ====
section
/-! DEFINITION. One arm per constructor of `Instr`, each one direct call of its meaning. -/

namespace Sys2Proof.Machine

def exec (i : Instr) (s : State) : Host.Outcome State Fault Refusal :=
  match i with
  | .nop => Sys2Proof.Machine.execNop s
  | .ldA16Sp a16 => Sys2Proof.Machine.execLdA16Sp a16 s
  | .stop => Sys2Proof.Machine.execStop s
  | .jrE8 e8 => Sys2Proof.Machine.execJrE8 e8 s
  | .rlca => Sys2Proof.Machine.execRlca s
  | .rrca => Sys2Proof.Machine.execRrca s
  | .rla => Sys2Proof.Machine.execRla s
  | .rra => Sys2Proof.Machine.execRra s
  | .daa => Sys2Proof.Machine.execDaa s
  | .cpl => Sys2Proof.Machine.execCpl s
  | .scf => Sys2Proof.Machine.execScf s
  | .ccf => Sys2Proof.Machine.execCcf s
  | .halt => Sys2Proof.Machine.execHalt s
  | .ldHlImm8 imm8 => Sys2Proof.Machine.execLdHlImm8 imm8 s
  | .incHl => Sys2Proof.Machine.execIncHl s
  | .decHl => Sys2Proof.Machine.execDecHl s
  | .jrCcE8 cc e8 => Sys2Proof.Machine.execJrCcE8 cc e8 s
  | .ldR16Imm16 p imm16 => Sys2Proof.Machine.execLdR16Imm16 p imm16 s
  | .ldR16MemA p => Sys2Proof.Machine.execLdR16MemA p s
  | .ldAR16Mem p => Sys2Proof.Machine.execLdAR16Mem p s
  | .incR16 p => Sys2Proof.Machine.execIncR16 p s
  | .decR16 p => Sys2Proof.Machine.execDecR16 p s
  | .addHlR16 p => Sys2Proof.Machine.execAddHlR16 p s
  | .incR8 dst => Sys2Proof.Machine.execIncR8 dst s
  | .decR8 dst => Sys2Proof.Machine.execDecR8 dst s
  | .ldR8Imm8 dst imm8 => Sys2Proof.Machine.execLdR8Imm8 dst imm8 s
  | .ldR8Hl dst => Sys2Proof.Machine.execLdR8Hl dst s
  | .ldHlR8 r => Sys2Proof.Machine.execLdHlR8 r s
  | .ldR8R8 dst r => Sys2Proof.Machine.execLdR8R8 dst r s
  | .addAR8 r => Sys2Proof.Machine.execAddAR8 r s
  | .adcAR8 r => Sys2Proof.Machine.execAdcAR8 r s
  | .subAR8 r => Sys2Proof.Machine.execSubAR8 r s
  | .sbcAR8 r => Sys2Proof.Machine.execSbcAR8 r s
  | .andAR8 r => Sys2Proof.Machine.execAndAR8 r s
  | .xorAR8 r => Sys2Proof.Machine.execXorAR8 r s
  | .orAR8 r => Sys2Proof.Machine.execOrAR8 r s
  | .cpAR8 r => Sys2Proof.Machine.execCpAR8 r s
  | .addAImm8 imm8 => Sys2Proof.Machine.execAddAImm8 imm8 s
  | .adcAImm8 imm8 => Sys2Proof.Machine.execAdcAImm8 imm8 s
  | .subAImm8 imm8 => Sys2Proof.Machine.execSubAImm8 imm8 s
  | .sbcAImm8 imm8 => Sys2Proof.Machine.execSbcAImm8 imm8 s
  | .andAImm8 imm8 => Sys2Proof.Machine.execAndAImm8 imm8 s
  | .xorAImm8 imm8 => Sys2Proof.Machine.execXorAImm8 imm8 s
  | .orAImm8 imm8 => Sys2Proof.Machine.execOrAImm8 imm8 s
  | .cpAImm8 imm8 => Sys2Proof.Machine.execCpAImm8 imm8 s
  | .retCc cc => Sys2Proof.Machine.execRetCc cc s
  | .jpCcA16 cc a16 => Sys2Proof.Machine.execJpCcA16 cc a16 s
  | .callCcA16 cc a16 => Sys2Proof.Machine.execCallCcA16 cc a16 s
  | .jpA16 a16 => Sys2Proof.Machine.execJpA16 a16 s
  | .ret => Sys2Proof.Machine.execRet s
  | .reti => Sys2Proof.Machine.execReti s
  | .callA16 a16 => Sys2Proof.Machine.execCallA16 a16 s
  | .prefixCb cb => Sys2Proof.Machine.execPrefixCb cb s
  | .jpHl => Sys2Proof.Machine.execJpHl s
  | .rstVec t => Sys2Proof.Machine.execRstVec t s
  | .popR16stk p => Sys2Proof.Machine.execPopR16stk p s
  | .pushR16stk p => Sys2Proof.Machine.execPushR16stk p s
  | .ldhA8A a8 => Sys2Proof.Machine.execLdhA8A a8 s
  | .ldhCA => Sys2Proof.Machine.execLdhCA s
  | .ldA16A a16 => Sys2Proof.Machine.execLdA16A a16 s
  | .ldhAA8 a8 => Sys2Proof.Machine.execLdhAA8 a8 s
  | .ldhAC => Sys2Proof.Machine.execLdhAC s
  | .ldAA16 a16 => Sys2Proof.Machine.execLdAA16 a16 s
  | .addSpE8 e8 => Sys2Proof.Machine.execAddSpE8 e8 s
  | .ldHlSpE8 e8 => Sys2Proof.Machine.execLdHlSpE8 e8 s
  | .ldSpHl => Sys2Proof.Machine.execLdSpHl s
  | .di => Sys2Proof.Machine.execDi s
  | .ei => Sys2Proof.Machine.execEi s
  | .illegalD3 => Sys2Proof.Machine.execIllegalD3 s
  | .illegalDB => Sys2Proof.Machine.execIllegalDB s
  | .illegalDD => Sys2Proof.Machine.execIllegalDD s
  | .illegalE3 => Sys2Proof.Machine.execIllegalE3 s
  | .illegalE4 => Sys2Proof.Machine.execIllegalE4 s
  | .illegalEB => Sys2Proof.Machine.execIllegalEB s
  | .illegalEC => Sys2Proof.Machine.execIllegalEC s
  | .illegalED => Sys2Proof.Machine.execIllegalED s
  | .illegalF4 => Sys2Proof.Machine.execIllegalF4 s
  | .illegalFC => Sys2Proof.Machine.execIllegalFC s
  | .illegalFD => Sys2Proof.Machine.execIllegalFD s
  | .rlcR8 t => Sys2Proof.Machine.execRlcR8 t s
  | .rrcR8 t => Sys2Proof.Machine.execRrcR8 t s
  | .rlR8 t => Sys2Proof.Machine.execRlR8 t s
  | .rrR8 t => Sys2Proof.Machine.execRrR8 t s
  | .slaR8 t => Sys2Proof.Machine.execSlaR8 t s
  | .sraR8 t => Sys2Proof.Machine.execSraR8 t s
  | .swapR8 t => Sys2Proof.Machine.execSwapR8 t s
  | .srlR8 t => Sys2Proof.Machine.execSrlR8 t s
  | .bitNR8 n t => Sys2Proof.Machine.execBitNR8 n t s
  | .resNR8 n t => Sys2Proof.Machine.execResNR8 n t s
  | .setNR8 n t => Sys2Proof.Machine.execSetNR8 n t s

end Sys2Proof.Machine
end

