-- ==== Sys2Proof/Machine/Fetch.lean ====
section
/-! DEFINITION. Fetching and decoding the instruction at PC (00_scope.md R12; 30_encoding.md R108; 10_state.md R37), and
placing instruction bytes where the next fetch reads them. -/

namespace Sys2Proof.Machine

/-- `Fetch8()`: the byte at PC, and PC past it (00_scope.md R12; 20_memory.md R82). -/
def fetch8 (s : State) : Except Fault (Byte × State) :=
  match readByte .fetch (s.read16 .pc) s with
  | .error f => .error f
  | .ok v => .ok (v, s.write16 .pc (s.read16 .pc + 1))

/-- `Fetch16()`: two `Fetch8`, low byte first (00_scope.md R12). -/
def fetch16 (s : State) : Except Fault (Word × State) :=
  match fetch8 s with
  | .error f => .error f
  | .ok (l, s) =>
    match fetch8 s with
    | .error f => .error f
    | .ok (h, s) => .ok (combine h l, s)

/-- The decode procedure of 30_encoding.md R108 on the machine: the instruction at PC and the state with PC past it. A
byte that no row matches raises DecodeFault (60_exceptions.md R310); there is none (30_encoding.md R120). -/
def fetchInstr (s : State) : Except Fault (Instr × State) :=
  match fetch8 s with
  | .error f => .error f
  | .ok (op, s) =>
    match decodeFirst op with
    | none => .error (.decodeFault op (s.read16 .pc - 1) s)
    | some (.op i) => .ok (i, s)
    | some (.opImm8 k) =>
      match fetch8 s with
      | .error f => .error f
      | .ok (n8, s) => .ok (k n8, s)
    | some (.opImm16 k) =>
      match fetch16 s with
      | .error f => .error f
      | .ok (n16, s) => .ok (k n16, s)
    | some .cb =>
      match fetch8 s with
      | .error f => .error f
      | .ok (cb, s) => .ok (decodeCb cb, s)

/-- Bytes stored at consecutive addresses modulo 65536, as far as the addresses are storage. -/
def placeBytes (addr : Word) (bytes : List Byte) (s : State) : State :=
  match bytes with
  | [] => s
  | v :: rest => placeBytes (addr + 1) rest (if isStorage addr then s.putByte addr v else s)

/-- The state whose next step runs the instruction at PC made of `bytes`: the bytes stored at PC, the machine neither
halted nor faulted (notes/assumptions/6.md). -/
def readyAt (bytes : List Byte) (s : State) : State :=
  { placeBytes (s.read16 .pc) bytes s with halted := false, fault := none }

end Sys2Proof.Machine
end

