-- ==== Sys2Proof/Machine/Step.lean ====
section
/-! DEFINITION. One step of the machine: the `tick` of 60_exceptions.md R316 without its cycle count (Machine/Tick.lean
has it). -/

namespace Sys2Proof.Machine

/-- One tick (60_exceptions.md R316): no step of a faulted machine, the idle step of a halted one (46_daa_misc.md R295),
else fetch and decode, then execute. -/
def step (s : State) : Host.Outcome State Fault Refusal :=
  match s.fault with
  | some r => .fault (.runOver r s)
  | none =>
    if s.halted then .next s
    else andThen (fetchInstr s) fun d => exec d.1 d.2

/-- The state whose very next step fetches and runs the instruction of a table word (notes/assumptions/6.md). -/
def State.withFetchWord (s : State) (nbits w : Nat) : State := readyAt (tableBytes nbits w) s

end Sys2Proof.Machine
end

