-- ==== Sys2Proof/Machine/HostPort.lean ====
section
/-! DEFINITION. What the host may do between two ticks (60_exceptions.md R328; 10_state.md R23; 20_memory.md R69): the
four bus operations, the register, flag and IME accessors, and loading a program (70_reset_and_hazards.md R343). -/

namespace Sys2Proof.Machine

/-- One action of the host between ticks. -/
inductive HostAction where
  | readByte (addr : Word)
  | writeByte (addr : Word) (v : Byte)
  | readWord (addr : Word)
  | writeWord (addr : Word) (v : Word)
  | read8 (r : Reg8)
  | write8 (r : Reg8) (v : Byte)
  | read16 (r : Reg16)
  | write16 (r : Reg16) (v : Word)
  | readFlag (f : Flag)
  | writeFlag (f : Flag) (v : Bool)
  | readIme
  | writeIme (v : Bool)
deriving DecidableEq, Repr

/-- What an action answers. -/
inductive HostReply where
  | done
  | byte (v : Byte)
  | word (v : Word)
  | bit (v : Bool)
deriving DecidableEq, Repr

/-- How an action ends. -/
inductive HostOutcome where
  /-- The reply, and the state after the action. -/
  | answered (reply : HostReply) (s : State)
  /-- The access raised BusFault: the machine is in the faulted condition, and no further tick is taken (60_exceptions.md
  R311, R312, R328). -/
  | faulted (s : State)
deriving DecidableEq, Repr

/-- Go on with what a bus access of the host gave; a BusFault it raised ends the run like any other (60_exceptions.md R312,
R328). -/
def hostAccess {α : Type} (faultState : FaultState) (s : State) (x : Except Fault α) (k : α → HostOutcome) : HostOutcome :=
  match x with
  | .ok a => k a
  | .error f => .faulted (s.faulted faultState f)

/-- One action of the host (60_exceptions.md R328): a bus access can raise BusFault (R311), an accessor cannot. -/
def hostAct (faultState : FaultState) (act : HostAction) (s : State) : HostOutcome :=
  match act with
  | .readByte addr => hostAccess faultState s (readByte .read addr s) fun v => .answered (.byte v) s
  | .writeByte addr v => hostAccess faultState s (writeByte addr v s) fun t => .answered .done t
  | .readWord addr => hostAccess faultState s (readWord addr s) fun v => .answered (.word v) s
  | .writeWord addr v => hostAccess faultState s (writeWord addr v s) fun t => .answered .done t
  | .read8 r => .answered (.byte (s.read8 r)) s
  | .write8 r v => .answered .done (s.write8 r v)
  | .read16 r => .answered (.word (s.read16 r)) s
  | .write16 r v => .answered .done (s.write16 r v)
  | .readFlag f => .answered (.bit (s.readFlag f)) s
  | .writeFlag f v => .answered .done (s.writeFlag f v)
  | .readIme => .answered (.bit s.ime) s
  | .writeIme v => .answered .done (s.writeIme v)

/-- INIT_MEM: the host's byte writes before the first tick, in order, up to the first that faults (00_scope.md R8;
70_reset_and_hazards.md R343). -/
def loadImage (faultState : FaultState) (image : List (Word × Byte)) (s : State) : HostOutcome :=
  match image with
  | [] => .answered .done s
  | (addr, v) :: rest => hostAccess faultState s (writeByte addr v s) (loadImage faultState rest)

end Sys2Proof.Machine
end

