-- ==== Sys2Proof/Machine/Tick.lean ====
section
/-! DEFINITION. The whole of `tick` (60_exceptions.md R316): a step with its cycle count (70_reset_and_hazards.md R350 to
R352), the sticky fault record (10_state.md R45; 60_exceptions.md R312), and the spec's open parameters CYCLES, FAULT_STATE
and HALT_WAKE as arguments (00_scope.md R8). `tick` is a wrapper of the same fetch, decode and execute as `step`. -/

namespace Sys2Proof.Machine

/-- Whether an R8 operand is the byte of memory at HL, which costs more cycles (70_reset_and_hazards.md R352). -/
def R8cost (i : R8) (register memory : Byte) : Byte := if i = .hlMem then memory else register

/-- The machine-cycle table of 70_reset_and_hazards.md R352. `s` is the state the executor starts from, which tells a
taken from an untaken conditional. An instruction that faults has no count: the value given for it is never returned. -/
def defaultCycles (i : Instr) (s : State) : Byte :=
  match i with
  | .nop => 1
  | .ldA16Sp _ => 5
  | .stop => 0
  | .jrE8 _ => 3
  | .rlca => 1
  | .rrca => 1
  | .rla => 1
  | .rra => 1
  | .daa => 1
  | .cpl => 1
  | .scf => 1
  | .ccf => 1
  | .halt => 1
  | .ldHlImm8 _ => 3
  | .incHl => 3
  | .decHl => 3
  | .jrCcE8 cc _ => if condHolds cc s then 3 else 2
  | .ldR16Imm16 _ _ => 3
  | .ldR16MemA _ => 2
  | .ldAR16Mem _ => 2
  | .incR16 _ => 2
  | .decR16 _ => 2
  | .addHlR16 _ => 2
  | .incR8 _ => 1
  | .decR8 _ => 1
  | .ldR8Imm8 _ _ => 2
  | .ldR8Hl _ => 2
  | .ldHlR8 _ => 2
  | .ldR8R8 _ _ => 1
  | .addAR8 r => R8cost r 1 2
  | .adcAR8 r => R8cost r 1 2
  | .subAR8 r => R8cost r 1 2
  | .sbcAR8 r => R8cost r 1 2
  | .andAR8 r => R8cost r 1 2
  | .xorAR8 r => R8cost r 1 2
  | .orAR8 r => R8cost r 1 2
  | .cpAR8 r => R8cost r 1 2
  | .addAImm8 _ => 2
  | .adcAImm8 _ => 2
  | .subAImm8 _ => 2
  | .sbcAImm8 _ => 2
  | .andAImm8 _ => 2
  | .xorAImm8 _ => 2
  | .orAImm8 _ => 2
  | .cpAImm8 _ => 2
  | .retCc cc => if condHolds cc s then 5 else 2
  | .jpCcA16 cc _ => if condHolds cc s then 4 else 3
  | .callCcA16 cc _ => if condHolds cc s then 6 else 3
  | .jpA16 _ => 4
  | .ret => 4
  | .reti => 4
  | .callA16 _ => 6
  | .prefixCb cb =>
    match fieldBlock cb with
    | 1 => R8cost (R8.ofBits (fieldB cb)) 2 3
    | _ => R8cost (R8.ofBits (fieldB cb)) 2 4
  | .jpHl => 1
  | .rstVec _ => 4
  | .popR16stk _ => 3
  | .pushR16stk _ => 4
  | .ldhA8A _ => 3
  | .ldhCA => 2
  | .ldA16A _ => 4
  | .ldhAA8 _ => 3
  | .ldhAC => 2
  | .ldAA16 _ => 4
  | .addSpE8 _ => 4
  | .ldHlSpE8 _ => 3
  | .ldSpHl => 2
  | .di => 1
  | .ei => 1
  | .illegalD3 => 0
  | .illegalDB => 0
  | .illegalDD => 0
  | .illegalE3 => 0
  | .illegalE4 => 0
  | .illegalEB => 0
  | .illegalEC => 0
  | .illegalED => 0
  | .illegalF4 => 0
  | .illegalFC => 0
  | .illegalFD => 0
  | .rlcR8 t => R8cost t 2 4
  | .rrcR8 t => R8cost t 2 4
  | .rlR8 t => R8cost t 2 4
  | .rrR8 t => R8cost t 2 4
  | .slaR8 t => R8cost t 2 4
  | .sraR8 t => R8cost t 2 4
  | .swapR8 t => R8cost t 2 4
  | .srlR8 t => R8cost t 2 4
  | .bitNR8 _ t => R8cost t 2 3
  | .resNR8 _ t => R8cost t 2 4
  | .setNR8 _ t => R8cost t 2 4

/-- The open parameters of `tick` (00_scope.md R8). -/
structure TickParams where
  /-- CYCLES: the count of an instruction executed from a state. -/
  cycles : Instr → State → Byte
  /-- CYCLES.halt_idle: the count of a tick of a halted machine. -/
  haltIdle : Byte
  /-- FAULT_STATE: what is left of the machine after a fault. Any value (60_exceptions.md R312). -/
  faultState : FaultState
  /-- HALT_WAKE: the external event that clears `halted`, present at the start of this tick. -/
  haltWake : Bool

/-- The spec's defaults: the cycle table of 70_reset_and_hazards.md R352 and no wake-up; FAULT_STATE has no default but
"any value" and stays an argument. -/
def TickParams.standard (faultState : FaultState) : TickParams :=
  { cycles := defaultCycles, haltIdle := 1, faultState := faultState, haltWake := false }

/-- What a tick answers (00_scope.md R16). -/
inductive TickOutcome where
  /-- A next state and the cycle count. -/
  | next (s : State) (cycles : Byte)
  /-- The idle tick of a halted machine. -/
  | idle (s : State) (cycles : Byte)
  /-- The tick ended in a fault, now recorded in the state; no count. -/
  | faulted (s : State)
  /-- No step: the run is over. -/
  | noStep
  /-- The executor has no meaning for the instruction; no instruction of this model answers so. -/
  | refused (r : Refusal)
deriving DecidableEq, Repr

/-- The state a tick starts from: `halted` cleared if the wake-up event is present. -/
def State.wakened (p : TickParams) (s : State) : State := if p.haltWake then s.writeHalted false else s

/-- One tick (60_exceptions.md R316). -/
def tick (p : TickParams) (s : State) : TickOutcome :=
  match s.fault with
  | some _ => .noStep
  | none =>
    if (s.wakened p).halted then .idle (s.wakened p) p.haltIdle
    else
      match fetchInstr (s.wakened p) with
      | .error f => .faulted (s.faulted p.faultState f)
      | .ok (i, u) =>
        match exec i u with
        | .next t => .next t (p.cycles i u)
        | .fault f => .faulted (s.faulted p.faultState f)
        | .refused r => .refused r

end Sys2Proof.Machine
end

