-- ==== Sys2Proof/Safety.lean ====
section
/-! DEFINITION. The words claims are stated in: what a safe step and a lawful state are, what an instruction leaves
unchanged, and what the flags are after it. -/

namespace Sys2Proof.Machine

/-! ## Safe steps and lawful states -/

/-- The step neither faults nor is refused. -/
def stepIsSafe (s : State) : Prop := ∃ t, step s = .next t

/-- F[3:0] is zero (10_state.md R25, R26). -/
def lowNibbleClear (s : State) : Prop := s.af &&& 0x000F = 0

/-- The invariant of the machine: F[3:0] is zero (10_state.md R26), memory is in canonical form and lists storage
addresses only (10_state.md R48), and no fault is recorded (10_state.md R45). -/
structure State.Inv (s : State) : Prop where
  nibble : lowNibbleClear s
  memory : Memory.wf s.mem
  running : s.fault = none

/-! ## What an instruction leaves unchanged -/

/-- Every 8-bit register but those of `regs`, SP and PC but those of `slots`, every byte of memory but those of `cells`,
and the fault record are as before. -/
structure UnchangedBut (regs : List Reg8) (slots : List Reg16) (cells : List Word) (s t : State) : Prop where
  reg8 : ∀ r, r ∉ regs → t.read8 r = s.read8 r
  sp : .sp ∉ slots → t.read16 .sp = s.read16 .sp
  pc : .pc ∉ slots → t.read16 .pc = s.read16 .pc
  byte : ∀ addr, addr ∉ cells → t.byteAt addr = s.byteAt addr
  fault : t.fault = s.fault

/-- IME and halted are as before. -/
def keepsControl (s t : State) : Prop := t.ime = s.ime ∧ t.halted = s.halted

/-- F[3:0] is as before. -/
def keepsLowNibble (s t : State) : Prop := ∀ i, i < 4 → t.af.getLsbD i = s.af.getLsbD i

/-- Everything but the named registers, counters and bytes is as before, F[3:0] included. -/
def frame (regs : List Reg8) (slots : List Reg16) (cells : List Word) (s t : State) : Prop :=
  UnchangedBut regs slots cells s t ∧ keepsControl s t ∧ keepsLowNibble s t

/-! ## Flags and operands, as the spec writes them -/

/-- The four flags after an instruction, each 1 exactly when the proposition holds. -/
def flagsAre (t : State) (z n h c : Prop) : Prop :=
  (t.readFlag .z = true ↔ z) ∧ (t.readFlag .n = true ↔ n) ∧ (t.readFlag .h = true ↔ h) ∧ (t.readFlag .c = true ↔ c)

/-- The flag was 1. -/
def was (s : State) (f : Flag) : Prop := s.readFlag f = true

/-- `flag.C` as a number (00_scope.md R11). -/
def carryIn (s : State) : Nat := (s.readFlag .c).toNat

/-- The value of `r8[i]` (00_scope.md R11; 10_state.md R30). -/
def operandByte (i : R8) (s : State) : Byte :=
  match i with
  | .b => s.read8 .b
  | .c => s.read8 .c
  | .d => s.read8 .d
  | .e => s.read8 .e
  | .h => s.read8 .h
  | .l => s.read8 .l
  | .hlMem => s.byteAt (s.read16 .hl)
  | .a => s.read8 .a

/-- The operand can be read and written: it is a register, or HL is a storage address. -/
def operandReachable (i : R8) (s : State) : Prop := i = .hlMem → isStorage (s.read16 .hl) = true

/-- The registers an R8 operand names: one, or none for the byte at HL. -/
def operandRegs (i : R8) : List Reg8 :=
  match i with
  | .b => [.b]
  | .c => [.c]
  | .d => [.d]
  | .e => [.e]
  | .h => [.h]
  | .l => [.l]
  | .hlMem => []
  | .a => [.a]

/-- The bytes of memory an R8 operand names: the one at HL, or none. -/
def operandCells (i : R8) (s : State) : List Word :=
  match i with
  | .hlMem => [s.read16 .hl]
  | _ => []

/-- The halves of a slot. -/
def halvesOf (r : Reg16) : List Reg8 :=
  match r with
  | .af => [.a, .f]
  | .bc => [.b, .c]
  | .de => [.d, .e]
  | .hl => [.h, .l]
  | .sp => []
  | .pc => []

/-- The instruction's bytes, and that the decoder reads the instruction back from them. -/
def encodedAs (i : Instr) (bytes : List Byte) : Prop := encode i = bytes ∧ decode bytes = .ok (i, [])

/-! ## Effects shared by several statements -/

/-- A is the 8-bit sum of A, `b` and `cin`, with the flags of an addition; nothing else changes (41_arithmetic.md R170,
R171). -/
def addsToA (b : Byte) (cin : Nat) (s t : State) : Prop :=
  (t.read8 .a).toNat = ((s.read8 .a).toNat + b.toNat + cin) % 256 ∧
  flagsAre t (((s.read8 .a).toNat + b.toNat + cin) % 256 = 0) False
    ((s.read8 .a).toNat % 16 + b.toNat % 16 + cin > 0xF) ((s.read8 .a).toNat + b.toNat + cin > 0xFF) ∧
  frame [.a, .f] [] [] s t

/-- The flags of A minus `b` minus `cin` (41_arithmetic.md R172 to R174). -/
def subFlags (b : Byte) (cin : Nat) (s t : State) : Prop :=
  flagsAre t (((s.read8 .a).toNat + 512 - b.toNat - cin) % 256 = 0) True
    ((s.read8 .a).toNat % 16 < b.toNat % 16 + cin) ((s.read8 .a).toNat < b.toNat + cin)

/-- A is the 8-bit difference of A, `b` and `cin`, with the flags of a subtraction; nothing else changes
(41_arithmetic.md R172, R173). -/
def subtractsFromA (b : Byte) (cin : Nat) (s t : State) : Prop :=
  (t.read8 .a).toNat = ((s.read8 .a).toNat + 512 - b.toNat - cin) % 256 ∧ subFlags b cin s t ∧
  frame [.a, .f] [] [] s t

/-- The flags of a subtraction of `b`, A kept; nothing else changes (41_arithmetic.md R174). -/
def comparesWithA (b : Byte) (s t : State) : Prop := subFlags b 0 s t ∧ frame [.f] [] [] s t

/-- Bit `i` of A is `f i` for every bit, Z tells a zero result, N and C are cleared, H is `h`; nothing else changes
(42_logic.md R200 to R202, R207). -/
def logicOnA (f : Nat → Bool) (h : Prop) (s t : State) : Prop :=
  (∀ i, i < 8 → (t.read8 .a).getLsbD i = f i) ∧ flagsAre t (∀ i, i < 8 → f i = false) False h False ∧
  frame [.a, .f] [] [] s t

/-- The state after `push v`: SP lower by 2, the low byte of `v` at the new SP and the high byte above it (20_memory.md
R71); apart from that and `slots`, nothing else changes. -/
def pushed (v : Word) (slots : List Reg16) (s t : State) : Prop :=
  t.read16 .sp = s.read16 .sp - 2 ∧ t.byteAt (s.read16 .sp - 2) = lo v ∧ t.byteAt (s.read16 .sp - 1) = hi v ∧
  frame [] (.sp :: slots) [s.read16 .sp - 2, s.read16 .sp - 1] s t

/-- Both bytes a push writes are storage. -/
def canPush (s : State) : Prop := isStorage (s.read16 .sp - 2) = true ∧ isStorage (s.read16 .sp - 1) = true

/-- Both bytes a pop reads are storage. -/
def canPop (s : State) : Prop := isStorage (s.read16 .sp) = true ∧ isStorage (s.read16 .sp + 1) = true

/-- The word on top of the stack (20_memory.md R66). -/
def stackTop (s : State) : Word := combine (s.byteAt (s.read16 .sp + 1)) (s.byteAt (s.read16 .sp))

/-- The push faults: at the first byte that is no storage, in the order low byte, high byte (20_memory.md R67; 60_exceptions.md
R317). -/
def pushFaults (s : State) (o : Result) : Prop :=
  (isStorage (s.read16 .sp - 2) = false → raised o = some (.busFault (s.read16 .sp - 2) .write)) ∧
  (isStorage (s.read16 .sp - 2) = true → isStorage (s.read16 .sp - 1) = false →
    raised o = some (.busFault (s.read16 .sp - 1) .write))

/-- The pop faults: at the first byte that is no storage, in the order low byte, high byte (20_memory.md R66; 60_exceptions.md
R317). -/
def popFaults (s : State) (o : Result) : Prop :=
  (isStorage (s.read16 .sp) = false → raised o = some (.busFault (s.read16 .sp) .read)) ∧
  (isStorage (s.read16 .sp) = true → isStorage (s.read16 .sp + 1) = false →
    raised o = some (.busFault (s.read16 .sp + 1) .read))

/-- An access to the R8 operand faults as a read at HL (41_arithmetic.md R170; 43_rotate_shift_bit.md section 2). -/
def faultsAtHl (i : R8) (s : State) (o : Result) : Prop :=
  i = .hlMem → isStorage (s.read16 .hl) = false → raised o = some (.busFault (s.read16 .hl) .read)

/-- What a COND selector tests (00_scope.md R14). -/
def condMeans (cc : Cond) (s : State) : Prop :=
  match cc with
  | .nz => s.readFlag .z = false
  | .z => s.readFlag .z = true
  | .nc => s.readFlag .c = false
  | .c => s.readFlag .c = true

/-- HL after an R16MEM access (10_state.md R32). -/
def hlAfter (p : R16Mem) (s : State) : Word :=
  match p with
  | .bc => s.read16 .hl
  | .de => s.read16 .hl
  | .hlInc => s.read16 .hl + 1
  | .hlDec => s.read16 .hl - 1

/-- `w +_16 sext_16(e8)` on numbers: an operand byte of 128 or more stands for itself minus 256 (00_scope.md R10). -/
def plusSigned (w : Word) (e8 : Byte) : Nat :=
  if e8.toNat < 128 then (w.toNat + e8.toNat) % 65536 else (w.toNat + 65536 + e8.toNat - 256) % 65536

/-- Bit `i` of A is `f i` for every bit, Z, N, H are cleared, C is `c`; nothing else changes (43_rotate_shift_bit.md R215 to
R218). -/
def accRotates (f : Nat → Bool) (c : Prop) (s t : State) : Prop :=
  (∀ i, i < 8 → (t.read8 .a).getLsbD i = f i) ∧ flagsAre t False False False c ∧ frame [.a, .f] [] [] s t

/-- `RotTail` on the operand: bit `i` of it is `f i` for every bit, Z tells a zero result, N and H are cleared, C is `c`;
nothing else changes (43_rotate_shift_bit.md section 2). -/
def operandBecomes (r : R8) (f : Nat → Bool) (c : Prop) (s t : State) : Prop :=
  (∀ i, i < 8 → (operandByte r t).getLsbD i = f i) ∧ flagsAre t (∀ i, i < 8 → f i = false) False False c ∧
  frame (.f :: operandRegs r) [] (operandCells r s) s t

/-- A CB rotate or shift `mk` of the given index: its encoding, its fault, and its effect, where `f v cin i` is bit `i` of
the result for the operand `v` and the old C, and `c v` the new C (43_rotate_shift_bit.md section 2). -/
def cbRotateIs (mk : R8 → Instr) (index : BitVec 3) (f : Byte → Bool → Nat → Bool) (c : Byte → Bool) : Prop :=
  ∀ (r : R8) (s : State),
    encodedAs (mk r) [0xCB, byteBAB 0 index r.bits] ∧ faultsAtHl r s (exec (mk r) s) ∧
    (operandReachable r s →
      ∃ t, exec (mk r) s = .next t ∧
        operandBecomes r (f (operandByte r s) (s.readFlag .c)) (c (operandByte r s) = true) s t)

/-- The twelve rows that are no instruction: 0x10 and the eleven illegal bytes (46_daa_misc.md R297, R298). -/
def noInstruction : Instr → Bool
  | .nop => false
  | .ldA16Sp _ => false
  | .stop => true
  | .jrE8 _ => false
  | .rlca => false
  | .rrca => false
  | .rla => false
  | .rra => false
  | .daa => false
  | .cpl => false
  | .scf => false
  | .ccf => false
  | .halt => false
  | .ldHlImm8 _ => false
  | .incHl => false
  | .decHl => false
  | .jrCcE8 _ _ => false
  | .ldR16Imm16 _ _ => false
  | .ldR16MemA _ => false
  | .ldAR16Mem _ => false
  | .incR16 _ => false
  | .decR16 _ => false
  | .addHlR16 _ => false
  | .incR8 _ => false
  | .decR8 _ => false
  | .ldR8Imm8 _ _ => false
  | .ldR8Hl _ => false
  | .ldHlR8 _ => false
  | .ldR8R8 _ _ => false
  | .addAR8 _ => false
  | .adcAR8 _ => false
  | .subAR8 _ => false
  | .sbcAR8 _ => false
  | .andAR8 _ => false
  | .xorAR8 _ => false
  | .orAR8 _ => false
  | .cpAR8 _ => false
  | .addAImm8 _ => false
  | .adcAImm8 _ => false
  | .subAImm8 _ => false
  | .sbcAImm8 _ => false
  | .andAImm8 _ => false
  | .xorAImm8 _ => false
  | .orAImm8 _ => false
  | .cpAImm8 _ => false
  | .retCc _ => false
  | .jpCcA16 _ _ => false
  | .callCcA16 _ _ => false
  | .jpA16 _ => false
  | .ret => false
  | .reti => false
  | .callA16 _ => false
  | .prefixCb _ => false
  | .jpHl => false
  | .rstVec _ => false
  | .popR16stk _ => false
  | .pushR16stk _ => false
  | .ldhA8A _ => false
  | .ldhCA => false
  | .ldA16A _ => false
  | .ldhAA8 _ => false
  | .ldhAC => false
  | .ldAA16 _ => false
  | .addSpE8 _ => false
  | .ldHlSpE8 _ => false
  | .ldSpHl => false
  | .di => false
  | .ei => false
  | .illegalD3 => true
  | .illegalDB => true
  | .illegalDD => true
  | .illegalE3 => true
  | .illegalE4 => true
  | .illegalEB => true
  | .illegalEC => true
  | .illegalED => true
  | .illegalF4 => true
  | .illegalFC => true
  | .illegalFD => true
  | .rlcR8 _ => false
  | .rrcR8 _ => false
  | .rlR8 _ => false
  | .rrR8 _ => false
  | .slaR8 _ => false
  | .sraR8 _ => false
  | .swapR8 _ => false
  | .srlR8 _ => false
  | .bitNR8 _ _ => false
  | .resNR8 _ _ => false
  | .setNR8 _ _ => false

/-- The instructions with a MemRead or MemWrite that can fault (60_exceptions.md R311): an R8 operand that is the byte at
HL, the indirect and absolute forms, and every push and pop. The high-memory forms are not among them: their addresses are
all storage (40_data_movement.md R148). -/
def accessesData : Instr → Bool
  | .nop => false
  | .ldA16Sp _ => true
  | .stop => false
  | .jrE8 _ => false
  | .rlca => false
  | .rrca => false
  | .rla => false
  | .rra => false
  | .daa => false
  | .cpl => false
  | .scf => false
  | .ccf => false
  | .halt => false
  | .ldHlImm8 _ => true
  | .incHl => true
  | .decHl => true
  | .jrCcE8 _ _ => false
  | .ldR16Imm16 _ _ => false
  | .ldR16MemA _ => true
  | .ldAR16Mem _ => true
  | .incR16 _ => false
  | .decR16 _ => false
  | .addHlR16 _ => false
  | .incR8 dst => !dst.isRegister
  | .decR8 dst => !dst.isRegister
  | .ldR8Imm8 dst _ => !dst.isRegister
  | .ldR8Hl _ => true
  | .ldHlR8 _ => true
  | .ldR8R8 dst r => !dst.isRegister || !r.isRegister
  | .addAR8 r => !r.isRegister
  | .adcAR8 r => !r.isRegister
  | .subAR8 r => !r.isRegister
  | .sbcAR8 r => !r.isRegister
  | .andAR8 r => !r.isRegister
  | .xorAR8 r => !r.isRegister
  | .orAR8 r => !r.isRegister
  | .cpAR8 r => !r.isRegister
  | .addAImm8 _ => false
  | .adcAImm8 _ => false
  | .subAImm8 _ => false
  | .sbcAImm8 _ => false
  | .andAImm8 _ => false
  | .xorAImm8 _ => false
  | .orAImm8 _ => false
  | .cpAImm8 _ => false
  | .retCc _ => true
  | .jpCcA16 _ _ => false
  | .callCcA16 _ _ => true
  | .jpA16 _ => false
  | .ret => true
  | .reti => true
  | .callA16 _ => true
  | .prefixCb cb => !(R8.ofBits (fieldB cb)).isRegister
  | .jpHl => false
  | .rstVec _ => true
  | .popR16stk _ => true
  | .pushR16stk _ => true
  | .ldhA8A _ => false
  | .ldhCA => false
  | .ldA16A _ => true
  | .ldhAA8 _ => false
  | .ldhAC => false
  | .ldAA16 _ => true
  | .addSpE8 _ => false
  | .ldHlSpE8 _ => false
  | .ldSpHl => false
  | .di => false
  | .ei => false
  | .illegalD3 => false
  | .illegalDB => false
  | .illegalDD => false
  | .illegalE3 => false
  | .illegalE4 => false
  | .illegalEB => false
  | .illegalEC => false
  | .illegalED => false
  | .illegalF4 => false
  | .illegalFC => false
  | .illegalFD => false
  | .rlcR8 t => !t.isRegister
  | .rrcR8 t => !t.isRegister
  | .rlR8 t => !t.isRegister
  | .rrR8 t => !t.isRegister
  | .slaR8 t => !t.isRegister
  | .sraR8 t => !t.isRegister
  | .swapR8 t => !t.isRegister
  | .srlR8 t => !t.isRegister
  | .bitNR8 _ t => !t.isRegister
  | .resNR8 _ t => !t.isRegister
  | .setNR8 _ t => !t.isRegister

/-- The three bytes at PC, whether or not the bus lets them be fetched. -/
def windowAtPc (s : State) : List Byte :=
  [s.byteAt (s.read16 .pc), s.byteAt (s.read16 .pc + 1), s.byteAt (s.read16 .pc + 2)]

/-- Neither halted nor faulted: the next step fetches (60_exceptions.md R316). -/
def running (s : State) : Prop := s.fault = none ∧ s.halted = false

/-- The two-digit packed BCD byte of a number below 100 (46_daa_misc.md R291). -/
def bcd (x : Nat) : Byte := BitVec.ofNat 8 (x / 10 * 16 + x % 10)

/-- Two states that agree on everything but the flags N and H. -/
def agreeButNH (s s' : State) : Prop :=
  s' = { s with af := s'.af } ∧ ∀ i, i ≠ 5 → i ≠ 6 → s'.af.getLsbD i = s.af.getLsbD i

end Sys2Proof.Machine
end

