-- ==== Sys2Proof/Certificates/Slice0/Obligations.lean ====
section
/-! DEFINITION. The statements for the provers, file by file of spec/. The vocabulary (frame, flagsAre, encodedAs,
operandByte and the others) is in Sys2Proof/Safety.lean. -/

open Sys2Proof Sys2Proof.Machine

/-! ## 40_data_movement.md -/

/-- R140, R143: `LD r8,r8'` and `LD r8,imm8` complete in every state, write the destination register and nothing else. -/
def Obligations.LoadRegisterFromRegisterOrImmediate : Prop :=
  ∀ (dst r : R8) (v : Byte) (s : State), dst.isRegister = true → r.isRegister = true →
    encodedAs (.ldR8R8 dst r) [byteBAB 0b01 dst.bits r.bits] ∧
    encodedAs (.ldR8Imm8 dst v) [byteBAB 0b00 dst.bits 0b110, v] ∧
    (∃ t, exec (.ldR8R8 dst r) s = .next t ∧ operandByte dst t = operandByte r s ∧
      frame (operandRegs dst) [] [] s t) ∧
    (∃ t, exec (.ldR8Imm8 dst v) s = .next t ∧ operandByte dst t = v ∧ frame (operandRegs dst) [] [] s t)

/-- R141: `LD r8,(HL)` reads the byte at the old HL into the register, or raises BusFault(HL, read). -/
def Obligations.LoadRegisterFromMemoryAtHl : Prop :=
  ∀ (dst : R8) (s : State), dst.isRegister = true →
    encodedAs (.ldR8Hl dst) [byteBAB 0b01 dst.bits 0b110] ∧
    (isStorage (s.read16 .hl) = true →
      ∃ t, exec (.ldR8Hl dst) s = .next t ∧ operandByte dst t = s.byteAt (s.read16 .hl) ∧
        frame (operandRegs dst) [] [] s t) ∧
    (isStorage (s.read16 .hl) = false →
      raised (exec (.ldR8Hl dst) s) = some (.busFault (s.read16 .hl) .read))

/-- R142, R144: `LD (HL),r8` and `LD (HL),imm8` store one byte at HL and change nothing else, or raise
BusFault(HL, write). -/
def Obligations.StoreByteAtHl : Prop :=
  ∀ (r : R8) (v : Byte) (s : State), r.isRegister = true →
    encodedAs (.ldHlR8 r) [byteBAB 0b01 0b110 r.bits] ∧
    encodedAs (.ldHlImm8 v) [0x36, v] ∧
    (isStorage (s.read16 .hl) = true →
      (∃ t, exec (.ldHlR8 r) s = .next t ∧ t.byteAt (s.read16 .hl) = operandByte r s ∧
        frame [] [] [s.read16 .hl] s t) ∧
      (∃ t, exec (.ldHlImm8 v) s = .next t ∧ t.byteAt (s.read16 .hl) = v ∧ frame [] [] [s.read16 .hl] s t)) ∧
    (isStorage (s.read16 .hl) = false →
      raised (exec (.ldHlR8 r) s) = some (.busFault (s.read16 .hl) .write) ∧
      raised (exec (.ldHlImm8 v) s) = some (.busFault (s.read16 .hl) .write))

/-- R145, R155: `LD r16,imm16` and `LD SP,HL` complete in every state and write the slot and nothing else. -/
def Obligations.LoadPairImmediateAndSpFromHl : Prop :=
  ∀ (p : R16) (w : Word) (s : State),
    encodedAs (.ldR16Imm16 p w) [byteBYZ 0b00 p.bits 0b0001, lo w, hi w] ∧
    encodedAs .ldSpHl [0xF9] ∧
    (∃ t, exec (.ldR16Imm16 p w) s = .next t ∧ t.read16 (slotOfR16 p) = w ∧
      frame (halvesOf (slotOfR16 p)) [slotOfR16 p] [] s t) ∧
    (∃ t, exec .ldSpHl s = .next t ∧ t.read16 .sp = s.read16 .hl ∧ frame [] [.sp] [] s t)

/-- R146, R147: `LD (r16mem),A` and `LD A,(r16mem)` access the byte at BC, DE or the old HL, then leave HL as the
selector says; on a faulting segment they raise BusFault. -/
def Obligations.IndirectLoadAndStoreThroughPair : Prop :=
  ∀ (p : R16Mem) (s : State),
    encodedAs (.ldR16MemA p) [byteBYZ 0b00 p.bits 0b0010] ∧
    encodedAs (.ldAR16Mem p) [byteBYZ 0b00 p.bits 0b1010] ∧
    (isStorage (addrOfR16Mem p s) = true →
      (∃ t, exec (.ldR16MemA p) s = .next t ∧ t.byteAt (addrOfR16Mem p s) = s.read8 .a ∧
        t.read16 .hl = hlAfter p s ∧ frame [.h, .l] [] [addrOfR16Mem p s] s t) ∧
      (∃ t, exec (.ldAR16Mem p) s = .next t ∧ t.read8 .a = s.byteAt (addrOfR16Mem p s) ∧
        t.read16 .hl = hlAfter p s ∧ frame [.a, .h, .l] [] [] s t)) ∧
    (isStorage (addrOfR16Mem p s) = false →
      raised (exec (.ldR16MemA p) s) = some (.busFault (addrOfR16Mem p s) .write) ∧
      raised (exec (.ldAR16Mem p) s) = some (.busFault (addrOfR16Mem p s) .read))

/-- R148 to R151: the four `LDH` forms complete in every state; the address is 0xFF00 plus the operand byte or C. -/
def Obligations.HighMemoryLoadsAndStoresComplete : Prop :=
  ∀ (a8 : Byte) (s : State),
    encodedAs (.ldhA8A a8) [0xE0, a8] ∧ encodedAs (.ldhAA8 a8) [0xF0, a8] ∧
    encodedAs .ldhCA [0xE2] ∧ encodedAs .ldhAC [0xF2] ∧
    (∃ t, exec (.ldhA8A a8) s = .next t ∧ t.byteAt (0xFF00 + a8.zeroExtend 16) = s.read8 .a ∧
      frame [] [] [0xFF00 + a8.zeroExtend 16] s t) ∧
    (∃ t, exec (.ldhAA8 a8) s = .next t ∧ t.read8 .a = s.byteAt (0xFF00 + a8.zeroExtend 16) ∧
      frame [.a] [] [] s t) ∧
    (∃ t, exec .ldhCA s = .next t ∧ t.byteAt (0xFF00 + (s.read8 .c).zeroExtend 16) = s.read8 .a ∧
      frame [] [] [0xFF00 + (s.read8 .c).zeroExtend 16] s t) ∧
    (∃ t, exec .ldhAC s = .next t ∧ t.read8 .a = s.byteAt (0xFF00 + (s.read8 .c).zeroExtend 16) ∧
      frame [.a] [] [] s t)

/-- R152: `LD (a16),SP` stores SP low byte first at a16 and a16 +_16 1; the first byte that is no storage faults. -/
def Obligations.StoreSpAbsolute : Prop :=
  ∀ (a16 : Word) (s : State),
    encodedAs (.ldA16Sp a16) [0x08, lo a16, hi a16] ∧
    (isStorage a16 = true → isStorage (a16 + 1) = true →
      ∃ t, exec (.ldA16Sp a16) s = .next t ∧ t.byteAt a16 = lo (s.read16 .sp) ∧
        t.byteAt (a16 + 1) = hi (s.read16 .sp) ∧ frame [] [] [a16, a16 + 1] s t) ∧
    (isStorage a16 = false → raised (exec (.ldA16Sp a16) s) = some (.busFault a16 .write)) ∧
    (isStorage a16 = true → isStorage (a16 + 1) = false →
      raised (exec (.ldA16Sp a16) s) = some (.busFault (a16 + 1) .write))

/-- R153, R154: `LD (a16),A` and `LD A,(a16)` move one byte between A and the address, or raise BusFault. -/
def Obligations.AbsoluteLoadAndStoreOfA : Prop :=
  ∀ (a16 : Word) (s : State),
    encodedAs (.ldA16A a16) [0xEA, lo a16, hi a16] ∧ encodedAs (.ldAA16 a16) [0xFA, lo a16, hi a16] ∧
    (isStorage a16 = true →
      (∃ t, exec (.ldA16A a16) s = .next t ∧ t.byteAt a16 = s.read8 .a ∧ frame [] [] [a16] s t) ∧
      (∃ t, exec (.ldAA16 a16) s = .next t ∧ t.read8 .a = s.byteAt a16 ∧ frame [.a] [] [] s t)) ∧
    (isStorage a16 = false →
      raised (exec (.ldA16A a16) s) = some (.busFault a16 .write) ∧
      raised (exec (.ldAA16 a16) s) = some (.busFault a16 .read))

/-- R156, R157: `LD HL,SP+e8` and `ADD SP,e8` add the signed operand to SP; Z and N are cleared, H and C come from the
low byte of SP plus the unsigned operand byte. -/
def Obligations.SpPlusOffsetForms : Prop :=
  ∀ (e8 : Byte) (s : State),
    encodedAs (.ldHlSpE8 e8) [0xF8, e8] ∧ encodedAs (.addSpE8 e8) [0xE8, e8] ∧
    (∃ t, exec (.ldHlSpE8 e8) s = .next t ∧ (t.read16 .hl).toNat = plusSigned (s.read16 .sp) e8 ∧
      flagsAre t False False ((s.read16 .sp).toNat % 16 + e8.toNat % 16 > 0xF)
        ((s.read16 .sp).toNat % 256 + e8.toNat > 0xFF) ∧
      frame [.h, .l, .f] [] [] s t) ∧
    (∃ t, exec (.addSpE8 e8) s = .next t ∧ (t.read16 .sp).toNat = plusSigned (s.read16 .sp) e8 ∧
      flagsAre t False False ((s.read16 .sp).toNat % 16 + e8.toNat % 16 > 0xF)
        ((s.read16 .sp).toNat % 256 + e8.toNat > 0xFF) ∧
      frame [.f] [.sp] [] s t)

/-! ## 41_arithmetic.md -/

/-- R170, R171, R175, R176: `ADD` and `ADC` of every operand form. -/
def Obligations.AddAndAdcAllForms : Prop :=
  ∀ (r : R8) (v : Byte) (s : State),
    encodedAs (.addAR8 r) [byteBAB 0b10 0 r.bits] ∧ encodedAs (.adcAR8 r) [byteBAB 0b10 1 r.bits] ∧
    encodedAs (.addAImm8 v) [0xC6, v] ∧ encodedAs (.adcAImm8 v) [0xCE, v] ∧
    (operandReachable r s →
      (∃ t, exec (.addAR8 r) s = .next t ∧ addsToA (operandByte r s) 0 s t) ∧
      (∃ t, exec (.adcAR8 r) s = .next t ∧ addsToA (operandByte r s) (carryIn s) s t)) ∧
    faultsAtHl r s (exec (.addAR8 r) s) ∧ faultsAtHl r s (exec (.adcAR8 r) s) ∧
    (∃ t, exec (.addAImm8 v) s = .next t ∧ addsToA v 0 s t) ∧
    (∃ t, exec (.adcAImm8 v) s = .next t ∧ addsToA v (carryIn s) s t)

/-- R172, R173, R177, R178: `SUB` and `SBC` of every operand form. -/
def Obligations.SubAndSbcAllForms : Prop :=
  ∀ (r : R8) (v : Byte) (s : State),
    encodedAs (.subAR8 r) [byteBAB 0b10 2 r.bits] ∧ encodedAs (.sbcAR8 r) [byteBAB 0b10 3 r.bits] ∧
    encodedAs (.subAImm8 v) [0xD6, v] ∧ encodedAs (.sbcAImm8 v) [0xDE, v] ∧
    (operandReachable r s →
      (∃ t, exec (.subAR8 r) s = .next t ∧ subtractsFromA (operandByte r s) 0 s t) ∧
      (∃ t, exec (.sbcAR8 r) s = .next t ∧ subtractsFromA (operandByte r s) (carryIn s) s t)) ∧
    faultsAtHl r s (exec (.subAR8 r) s) ∧ faultsAtHl r s (exec (.sbcAR8 r) s) ∧
    (∃ t, exec (.subAImm8 v) s = .next t ∧ subtractsFromA v 0 s t) ∧
    (∃ t, exec (.sbcAImm8 v) s = .next t ∧ subtractsFromA v (carryIn s) s t)

/-- R174, R179: `CP` of every operand form writes the flags of `SUB` and leaves A. -/
def Obligations.CompareWritesFlagsOnly : Prop :=
  ∀ (r : R8) (v : Byte) (s : State),
    encodedAs (.cpAR8 r) [byteBAB 0b10 7 r.bits] ∧ encodedAs (.cpAImm8 v) [0xFE, v] ∧
    (operandReachable r s → ∃ t, exec (.cpAR8 r) s = .next t ∧ comparesWithA (operandByte r s) s t) ∧
    faultsAtHl r s (exec (.cpAR8 r) s) ∧
    (∃ t, exec (.cpAImm8 v) s = .next t ∧ comparesWithA v s t)

/-- The two-step wording of `ADC` and `SBC`: fold the carry into the operand, apply the plain rule, and OR the half-carry
and carry of the fold step with those of the main step. An inference the spec marks as its own (R171, R173). -/
def Obligations.AdcSbcFoldTheCarryInTwoSteps : Prop :=
  ∀ (v : Byte) (s : State),
    (∃ t, exec (.adcAImm8 v) s = .next t ∧
      ((t.readFlag .h = true) ↔ (v.toNat % 16 + carryIn s > 0xF ∨
        (s.read8 .a).toNat % 16 + (v.toNat + carryIn s) % 256 % 16 > 0xF)) ∧
      ((t.readFlag .c = true) ↔ (v.toNat + carryIn s > 0xFF ∨
        (s.read8 .a).toNat + (v.toNat + carryIn s) % 256 > 0xFF))) ∧
    (∃ t, exec (.sbcAImm8 v) s = .next t ∧
      ((t.readFlag .h = true) ↔ (v.toNat % 16 + carryIn s > 0xF ∨
        (s.read8 .a).toNat % 16 < (v.toNat + carryIn s) % 256 % 16)) ∧
      ((t.readFlag .c = true) ↔ (v.toNat + carryIn s > 0xFF ∨
        (s.read8 .a).toNat < (v.toNat + carryIn s) % 256)))

/-- R180, R182: `INC r8` and `DEC r8` complete in every state, write the register, Z, N, H, and keep C. -/
def Obligations.IncrementAndDecrementRegister : Prop :=
  ∀ (dst : R8) (s : State), dst.isRegister = true →
    encodedAs (.incR8 dst) [byteBAB 0b00 dst.bits 0b100] ∧ encodedAs (.decR8 dst) [byteBAB 0b00 dst.bits 0b101] ∧
    (∃ t, exec (.incR8 dst) s = .next t ∧ (operandByte dst t).toNat = ((operandByte dst s).toNat + 1) % 256 ∧
      flagsAre t ((operandByte dst s).toNat = 0xFF) False ((operandByte dst s).toNat % 16 = 0xF) (was s .c) ∧
      frame (.f :: operandRegs dst) [] [] s t) ∧
    (∃ t, exec (.decR8 dst) s = .next t ∧ (operandByte dst t).toNat = ((operandByte dst s).toNat + 255) % 256 ∧
      flagsAre t ((operandByte dst s).toNat = 1) True ((operandByte dst s).toNat % 16 = 0) (was s .c) ∧
      frame (.f :: operandRegs dst) [] [] s t)

/-- R181, R183: `INC (HL)` and `DEC (HL)` rewrite the byte at HL with the flags of the register forms, or raise
BusFault(HL, read). -/
def Obligations.IncrementAndDecrementMemory : Prop :=
  ∀ s : State,
    encodedAs .incHl [0x34] ∧ encodedAs .decHl [0x35] ∧
    (isStorage (s.read16 .hl) = true →
      (∃ t, exec .incHl s = .next t ∧
        (t.byteAt (s.read16 .hl)).toNat = ((s.byteAt (s.read16 .hl)).toNat + 1) % 256 ∧
        flagsAre t ((s.byteAt (s.read16 .hl)).toNat = 0xFF) False ((s.byteAt (s.read16 .hl)).toNat % 16 = 0xF)
          (was s .c) ∧
        frame [.f] [] [s.read16 .hl] s t) ∧
      (∃ t, exec .decHl s = .next t ∧
        (t.byteAt (s.read16 .hl)).toNat = ((s.byteAt (s.read16 .hl)).toNat + 255) % 256 ∧
        flagsAre t ((s.byteAt (s.read16 .hl)).toNat = 1) True ((s.byteAt (s.read16 .hl)).toNat % 16 = 0)
          (was s .c) ∧
        frame [.f] [] [s.read16 .hl] s t)) ∧
    (isStorage (s.read16 .hl) = false →
      raised (exec .incHl s) = some (.busFault (s.read16 .hl) .read) ∧
      raised (exec .decHl s) = some (.busFault (s.read16 .hl) .read))

/-- R184: `ADD HL,r16` completes in every state; Z is kept, N cleared, H is the carry out of bit 11, C out of bit 15. -/
def Obligations.AddPairToHl : Prop :=
  ∀ (p : R16) (s : State),
    encodedAs (.addHlR16 p) [byteBYZ 0b00 p.bits 0b1001] ∧
    ∃ t, exec (.addHlR16 p) s = .next t ∧
      (t.read16 .hl).toNat = ((s.read16 .hl).toNat + (s.read16 (slotOfR16 p)).toNat) % 65536 ∧
      flagsAre t (was s .z) False
        ((s.read16 .hl).toNat % 4096 + (s.read16 (slotOfR16 p)).toNat % 4096 > 0xFFF)
        ((s.read16 .hl).toNat + (s.read16 (slotOfR16 p)).toNat > 0xFFFF) ∧
      frame [.h, .l, .f] [] [] s t

/-- R185, R186: `INC r16` and `DEC r16` complete in every state, wrap modulo 65536 and write no flag. -/
def Obligations.IncrementAndDecrementPair : Prop :=
  ∀ (p : R16) (s : State),
    encodedAs (.incR16 p) [byteBYZ 0b00 p.bits 0b0011] ∧ encodedAs (.decR16 p) [byteBYZ 0b00 p.bits 0b1011] ∧
    (∃ t, exec (.incR16 p) s = .next t ∧
      (t.read16 (slotOfR16 p)).toNat = ((s.read16 (slotOfR16 p)).toNat + 1) % 65536 ∧
      frame (halvesOf (slotOfR16 p)) [slotOfR16 p] [] s t) ∧
    (∃ t, exec (.decR16 p) s = .next t ∧
      (t.read16 (slotOfR16 p)).toNat = ((s.read16 (slotOfR16 p)).toNat + 65535) % 65536 ∧
      frame (halvesOf (slotOfR16 p)) [slotOfR16 p] [] s t)

/-! ## 42_logic.md -/

/-- R200 to R205: `AND`, `OR`, `XOR` of every operand form act bit by bit on A; H is set by `AND` only. -/
def Obligations.LogicAllForms : Prop :=
  ∀ (r : R8) (v : Byte) (s : State),
    encodedAs (.andAR8 r) [byteBAB 0b10 4 r.bits] ∧ encodedAs (.orAR8 r) [byteBAB 0b10 6 r.bits] ∧
    encodedAs (.xorAR8 r) [byteBAB 0b10 5 r.bits] ∧ encodedAs (.andAImm8 v) [0xE6, v] ∧
    encodedAs (.orAImm8 v) [0xF6, v] ∧ encodedAs (.xorAImm8 v) [0xEE, v] ∧
    (operandReachable r s →
      (∃ t, exec (.andAR8 r) s = .next t ∧
        logicOnA (fun i => (s.read8 .a).getLsbD i && (operandByte r s).getLsbD i) True s t) ∧
      (∃ t, exec (.orAR8 r) s = .next t ∧
        logicOnA (fun i => (s.read8 .a).getLsbD i || (operandByte r s).getLsbD i) False s t) ∧
      (∃ t, exec (.xorAR8 r) s = .next t ∧
        logicOnA (fun i => (s.read8 .a).getLsbD i != (operandByte r s).getLsbD i) False s t)) ∧
    faultsAtHl r s (exec (.andAR8 r) s) ∧ faultsAtHl r s (exec (.orAR8 r) s) ∧
    faultsAtHl r s (exec (.xorAR8 r) s) ∧
    (∃ t, exec (.andAImm8 v) s = .next t ∧
      logicOnA (fun i => (s.read8 .a).getLsbD i && v.getLsbD i) True s t) ∧
    (∃ t, exec (.orAImm8 v) s = .next t ∧
      logicOnA (fun i => (s.read8 .a).getLsbD i || v.getLsbD i) False s t) ∧
    (∃ t, exec (.xorAImm8 v) s = .next t ∧
      logicOnA (fun i => (s.read8 .a).getLsbD i != v.getLsbD i) False s t)

/-- R206: `CPL` inverts every bit of A, sets N and H, keeps Z and C. -/
def Obligations.ComplementA : Prop :=
  ∀ s : State,
    encodedAs .cpl [0x2F] ∧
    ∃ t, exec .cpl s = .next t ∧ (∀ i, i < 8 → (t.read8 .a).getLsbD i = !(s.read8 .a).getLsbD i) ∧
      flagsAre t (was s .z) True True (was s .c) ∧ frame [.a, .f] [] [] s t

/-! ## 43_rotate_shift_bit.md -/

/-- R215 to R218: the four accumulator rotates, bit by bit; Z, N, H are cleared and C is the bit rotated out. -/
def Obligations.AccumulatorRotates : Prop :=
  ∀ s : State,
    encodedAs .rlca [0x07] ∧ encodedAs .rrca [0x0F] ∧ encodedAs .rla [0x17] ∧ encodedAs .rra [0x1F] ∧
    (∃ t, exec .rlca s = .next t ∧
      accRotates (fun i => (s.read8 .a).getLsbD ((i + 7) % 8)) ((s.read8 .a).getLsbD 7 = true) s t) ∧
    (∃ t, exec .rrca s = .next t ∧
      accRotates (fun i => (s.read8 .a).getLsbD ((i + 1) % 8)) ((s.read8 .a).getLsbD 0 = true) s t) ∧
    (∃ t, exec .rla s = .next t ∧
      accRotates (fun i => if i = 0 then s.readFlag .c else (s.read8 .a).getLsbD (i - 1))
        ((s.read8 .a).getLsbD 7 = true) s t) ∧
    (∃ t, exec .rra s = .next t ∧
      accRotates (fun i => if i = 7 then s.readFlag .c else (s.read8 .a).getLsbD (i + 1))
        ((s.read8 .a).getLsbD 0 = true) s t)

/-- R219 to R226: the eight CB rotates and shifts on every operand, bit by bit. -/
def Obligations.CbRotatesAndShifts : Prop :=
  cbRotateIs .rlcR8 0 (fun v _ i => v.getLsbD ((i + 7) % 8)) (fun v => v.getLsbD 7) ∧
  cbRotateIs .rrcR8 1 (fun v _ i => v.getLsbD ((i + 1) % 8)) (fun v => v.getLsbD 0) ∧
  cbRotateIs .rlR8 2 (fun v cin i => if i = 0 then cin else v.getLsbD (i - 1)) (fun v => v.getLsbD 7) ∧
  cbRotateIs .rrR8 3 (fun v cin i => if i = 7 then cin else v.getLsbD (i + 1)) (fun v => v.getLsbD 0) ∧
  cbRotateIs .slaR8 4 (fun v _ i => if i = 0 then false else v.getLsbD (i - 1)) (fun v => v.getLsbD 7) ∧
  cbRotateIs .sraR8 5 (fun v _ i => if i = 7 then v.getLsbD 7 else v.getLsbD (i + 1)) (fun v => v.getLsbD 0) ∧
  cbRotateIs .swapR8 6 (fun v _ i => v.getLsbD ((i + 4) % 8)) (fun _ => false) ∧
  cbRotateIs .srlR8 7 (fun v _ i => if i = 7 then false else v.getLsbD (i + 1)) (fun v => v.getLsbD 0)

/-- R227: `BIT n` sets Z to the complement of the bit, clears N, sets H, keeps C, and writes nothing else. -/
def Obligations.BitTestWritesFlagsOnly : Prop :=
  ∀ (n : BitVec 3) (r : R8) (s : State),
    encodedAs (.bitNR8 n r) [0xCB, byteBAB 1 n r.bits] ∧
    (operandReachable r s →
      ∃ t, exec (.bitNR8 n r) s = .next t ∧
        flagsAre t ((operandByte r s).getLsbD n.toNat = false) False True (was s .c) ∧ frame [.f] [] [] s t) ∧
    faultsAtHl r s (exec (.bitNR8 n r) s)

/-- R228, R229: `RES n` and `SET n` clear and set the one bit of the operand and write no flag. -/
def Obligations.ResetAndSetBit : Prop :=
  ∀ (n : BitVec 3) (r : R8) (s : State),
    encodedAs (.resNR8 n r) [0xCB, byteBAB 2 n r.bits] ∧ encodedAs (.setNR8 n r) [0xCB, byteBAB 3 n r.bits] ∧
    (operandReachable r s →
      (∃ t, exec (.resNR8 n r) s = .next t ∧
        (∀ i, i < 8 → (operandByte r t).getLsbD i = if i = n.toNat then false else (operandByte r s).getLsbD i) ∧
        frame (operandRegs r) [] (operandCells r s) s t) ∧
      (∃ t, exec (.setNR8 n r) s = .next t ∧
        (∀ i, i < 8 → (operandByte r t).getLsbD i = if i = n.toNat then true else (operandByte r s).getLsbD i) ∧
        frame (operandRegs r) [] (operandCells r s) s t)) ∧
    faultsAtHl r s (exec (.resNR8 n r) s) ∧ faultsAtHl r s (exec (.setNR8 n r) s)

/-! ## 44_control_flow.md -/

/-- R250, R251: `JR e8` always, and `JR cc,e8` when its condition holds, add the signed offset to PC; untaken, nothing
changes. -/
def Obligations.RelativeJumps : Prop :=
  ∀ (cc : Cond) (e8 : Byte) (s : State),
    encodedAs (.jrE8 e8) [0x18, e8] ∧ encodedAs (.jrCcE8 cc e8) [byteIJB 0b001 cc.bits 0b000, e8] ∧
    (∃ t, exec (.jrE8 e8) s = .next t ∧ (t.read16 .pc).toNat = plusSigned (s.read16 .pc) e8 ∧
      frame [] [.pc] [] s t) ∧
    (condMeans cc s → ∃ t, exec (.jrCcE8 cc e8) s = .next t ∧
      (t.read16 .pc).toNat = plusSigned (s.read16 .pc) e8 ∧ frame [] [.pc] [] s t) ∧
    (¬ condMeans cc s → exec (.jrCcE8 cc e8) s = .next s)

/-- R252 to R254: `JP a16`, `JP cc,a16` and `JP HL` set PC and nothing else; untaken, nothing changes. -/
def Obligations.AbsoluteJumps : Prop :=
  ∀ (cc : Cond) (a16 : Word) (s : State),
    encodedAs (.jpA16 a16) [0xC3, lo a16, hi a16] ∧
    encodedAs (.jpCcA16 cc a16) [byteIJB 0b110 cc.bits 0b010, lo a16, hi a16] ∧ encodedAs .jpHl [0xE9] ∧
    (∃ t, exec (.jpA16 a16) s = .next t ∧ t.read16 .pc = a16 ∧ frame [] [.pc] [] s t) ∧
    (condMeans cc s → ∃ t, exec (.jpCcA16 cc a16) s = .next t ∧ t.read16 .pc = a16 ∧ frame [] [.pc] [] s t) ∧
    (¬ condMeans cc s → exec (.jpCcA16 cc a16) s = .next s) ∧
    (∃ t, exec .jpHl s = .next t ∧ t.read16 .pc = s.read16 .hl ∧ frame [] [.pc] [] s t)

/-- R255, R256: `CALL a16` and a taken `CALL cc,a16` push PC and jump, or fault at the first byte of the push that is no
storage; untaken, nothing changes. -/
def Obligations.CallsPushTheReturnAddress : Prop :=
  ∀ (cc : Cond) (a16 : Word) (s : State),
    encodedAs (.callA16 a16) [0xCD, lo a16, hi a16] ∧
    encodedAs (.callCcA16 cc a16) [byteIJB 0b110 cc.bits 0b100, lo a16, hi a16] ∧
    (canPush s → ∃ t, exec (.callA16 a16) s = .next t ∧ t.read16 .pc = a16 ∧ pushed (s.read16 .pc) [.pc] s t) ∧
    pushFaults s (exec (.callA16 a16) s) ∧
    (condMeans cc s →
      (canPush s → ∃ t, exec (.callCcA16 cc a16) s = .next t ∧ t.read16 .pc = a16 ∧
        pushed (s.read16 .pc) [.pc] s t) ∧
      pushFaults s (exec (.callCcA16 cc a16) s)) ∧
    (¬ condMeans cc s → exec (.callCcA16 cc a16) s = .next s)

/-- R257 to R259: `RET`, `RETI` and a taken `RET cc` pop PC and add 2 to SP, `RETI` sets IME as well; they fault at the
first byte of the pop that is no storage; untaken, nothing changes. -/
def Obligations.ReturnsPopThePc : Prop :=
  ∀ (cc : Cond) (s : State),
    encodedAs .ret [0xC9] ∧ encodedAs .reti [0xD9] ∧ encodedAs (.retCc cc) [byteIJB 0b110 cc.bits 0b000] ∧
    (canPop s →
      (∃ t, exec .ret s = .next t ∧ t.read16 .pc = stackTop s ∧ t.read16 .sp = s.read16 .sp + 2 ∧
        frame [] [.sp, .pc] [] s t) ∧
      (∃ t, exec .reti s = .next t ∧ t.read16 .pc = stackTop s ∧ t.read16 .sp = s.read16 .sp + 2 ∧
        t.ime = true ∧ t.halted = s.halted ∧ UnchangedBut [] [.sp, .pc] [] s t ∧ keepsLowNibble s t) ∧
      (condMeans cc s → ∃ t, exec (.retCc cc) s = .next t ∧ t.read16 .pc = stackTop s ∧
        t.read16 .sp = s.read16 .sp + 2 ∧ frame [] [.sp, .pc] [] s t)) ∧
    popFaults s (exec .ret s) ∧ popFaults s (exec .reti s) ∧
    (condMeans cc s → popFaults s (exec (.retCc cc) s)) ∧
    (¬ condMeans cc s → exec (.retCc cc) s = .next s)

/-- R260: `RST` pushes PC and jumps to 8 times its literal, or faults at the first byte of the push that is no storage. -/
def Obligations.RestartCallsItsVector : Prop :=
  ∀ (n : BitVec 3) (s : State),
    encodedAs (.rstVec n) [byteBAB 0b11 n 0b111] ∧
    (canPush s → ∃ t, exec (.rstVec n) s = .next t ∧ (t.read16 .pc).toNat = 8 * n.toNat ∧
      pushed (s.read16 .pc) [.pc] s t) ∧
    pushFaults s (exec (.rstVec n) s)

/-- R261, R262: `DI` and `EI` complete in every state, write IME within the step and nothing else. -/
def Obligations.InterruptEnableWrites : Prop :=
  ∀ s : State,
    encodedAs .di [0xF3] ∧ encodedAs .ei [0xFB] ∧
    (∃ t, exec .di s = .next t ∧ t.ime = false ∧ t.halted = s.halted ∧ UnchangedBut [] [] [] s t ∧
      keepsLowNibble s t) ∧
    (∃ t, exec .ei s = .next t ∧ t.ime = true ∧ t.halted = s.halted ∧ UnchangedBut [] [] [] s t ∧
      keepsLowNibble s t)

/-- A call and its return are symmetric (R263): `CALL` then `RET`, and `RST` then `RETI`, come back to the address after
the call with SP restored and only the two pushed bytes changed, `RETI` setting IME as well. -/
def Obligations.CallThenReturnComesBack : Prop :=
  ∀ (a16 : Word) (n : BitVec 3) (s : State), canPush s →
    (∃ t u, exec (.callA16 a16) s = .next t ∧ exec .ret t = .next u ∧ u.read16 .pc = s.read16 .pc ∧
      u.read16 .sp = s.read16 .sp ∧ frame [] [] [s.read16 .sp - 2, s.read16 .sp - 1] s u) ∧
    (∃ t u, exec (.rstVec n) s = .next t ∧ exec .reti t = .next u ∧ u.read16 .pc = s.read16 .pc ∧
      u.read16 .sp = s.read16 .sp ∧ u.ime = true ∧ u.halted = s.halted ∧
      UnchangedBut [] [] [s.read16 .sp - 2, s.read16 .sp - 1] s u ∧ keepsLowNibble s u)

/-! ## 45_stack.md -/

/-- R280: `PUSH` lowers SP by 2 and stores the pair low byte first, or faults at the first byte that is no storage; `PUSH
AF` stores F with its low nibble zero where F[3:0] is zero, as the machine's invariant says. -/
def Obligations.PushStoresThePair : Prop :=
  ∀ (p : R16Stk) (s : State),
    encodedAs (.pushR16stk p) [byteBYZ 0b11 p.bits 0b0101] ∧
    (canPush s → ∃ t, exec (.pushR16stk p) s = .next t ∧ pushed (s.read16 (slotOfR16Stk p)) [] s t ∧
      (p = .af → lowNibbleClear s → t.byteAt (t.read16 .sp) &&& 0x0F = 0)) ∧
    pushFaults s (exec (.pushR16stk p) s)

/-- R281: `POP` loads the pair from the word at SP and adds 2 to SP, `POP AF` dropping bits 3:0 of the low byte, or
faults at the first byte that is no storage. -/
def Obligations.PopLoadsThePair : Prop :=
  ∀ (p : R16Stk) (s : State),
    encodedAs (.popR16stk p) [byteBYZ 0b11 p.bits 0b0001] ∧
    (canPop s → ∃ t, exec (.popR16stk p) s = .next t ∧ t.read16 .sp = s.read16 .sp + 2 ∧
      (p ≠ .af → t.read16 (slotOfR16Stk p) = stackTop s ∧ keepsLowNibble s t) ∧
      (p = .af → t.read8 .a = hi (stackTop s) ∧ t.read8 .f = lo (stackTop s) &&& 0xF0) ∧
      UnchangedBut (halvesOf (slotOfR16Stk p)) [.sp] [] s t ∧ keepsControl s t) ∧
    popFaults s (exec (.popR16stk p) s)

/-- Stack symmetry (R282): `PUSH x` then `POP y` restores SP and copies pair x to pair y, with the low nibble of F cleared
where y is AF; no other register, no other byte than the two pushed, not PC, IME, halted or the fault record changes, and
F[3:0] only where y is AF. An inference the spec marks as its own. -/
def Obligations.PushThenPopCopiesThePair : Prop :=
  ∀ (p q : R16Stk) (s : State), canPush s →
    ∃ t u, exec (.pushR16stk p) s = .next t ∧ exec (.popR16stk q) t = .next u ∧
      u.read16 .sp = s.read16 .sp ∧
      u.read16 (slotOfR16Stk q) =
        (if q = .af then s.read16 (slotOfR16Stk p) &&& 0xFFF0 else s.read16 (slotOfR16Stk p)) ∧
      UnchangedBut (halvesOf (slotOfR16Stk q)) [] [s.read16 .sp - 2, s.read16 .sp - 1] s u ∧ keepsControl s u ∧
      (q ≠ .af → keepsLowNibble s u)

/-! ## 46_daa_misc.md -/

/-- R290: `DAA` completes in every state and adjusts A by the flags and A as they stood going in. -/
def Obligations.DecimalAdjust : Prop :=
  ∀ s : State,
    encodedAs .daa [0x27] ∧
    ∃ t, exec .daa s = .next t ∧ frame [.a, .f] [] [] s t ∧
      (¬ was s .n → ∀ low high : Nat,
        low = (if s.readFlag .h || decide ((s.read8 .a).toNat % 16 > 9) then 0x06 else 0) →
        high = (if s.readFlag .c || decide ((s.read8 .a).toNat > 0x99) then 0x60 else 0) →
        (t.read8 .a).toNat = ((s.read8 .a).toNat + low + high) % 256 ∧
        flagsAre t (t.read8 .a = 0) False False (was s .c ∨ (s.read8 .a).toNat > 0x99)) ∧
      (was s .n → ∀ low high : Nat,
        low = (if s.readFlag .h then 0x06 else 0) →
        high = (if s.readFlag .c then 0x60 else 0) →
        (t.read8 .a).toNat = ((s.read8 .a).toNat + 256 - low - high) % 256 ∧
        flagsAre t (t.read8 .a = 0) True False (was s .c))

/-- R292 to R294: `NOP` changes nothing; `SCF` and `CCF` clear N and H, set or complement C, and keep Z. -/
def Obligations.NopScfCcf : Prop :=
  ∀ s : State,
    encodedAs .nop [0x00] ∧ encodedAs .scf [0x37] ∧ encodedAs .ccf [0x3F] ∧
    exec .nop s = .next s ∧
    (∃ t, exec .scf s = .next t ∧ flagsAre t (was s .z) False False True ∧ frame [.f] [] [] s t) ∧
    (∃ t, exec .ccf s = .next t ∧ flagsAre t (was s .z) False False (¬ was s .c) ∧ frame [.f] [] [] s t)

/-- R295: `HALT` sets halted and nothing else; a halted machine's step changes nothing and its tick returns 1. -/
def Obligations.HaltIsForEver : Prop :=
  ∀ (s : State) (faultState : FaultState),
    encodedAs .halt [0x76] ∧
    (∃ t, exec .halt s = .next t ∧ t.halted = true ∧ t.ime = s.ime ∧ UnchangedBut [] [] [] s t ∧
      keepsLowNibble s t) ∧
    (s.fault = none → s.halted = true →
      step s = .next s ∧ tick (TickParams.standard faultState) s = .idle s 1)

/-- R297, R298: a step that meets 0x10 or one of the eleven illegal bytes raises DecodeFault with the byte and the address
it was fetched from, PC advanced by 1, no operand byte fetched and nothing else changed. That the executor raises it when it
is given such a row is the model's own (notes/assumptions/3.md: R310 says the decoder raises it); the machine that a fault
carries is the one at the raise, not the state after the fault (notes/assumptions/2.md). -/
def Obligations.BytesThatAreNoInstruction : Prop :=
  ∀ (i : Instr) (op : Byte) (s : State),
    (i, op) ∈ [(Instr.stop, (0x10 : Byte)), (.illegalD3, 0xD3), (.illegalDB, 0xDB), (.illegalDD, 0xDD),
      (.illegalE3, 0xE3), (.illegalE4, 0xE4), (.illegalEB, 0xEB), (.illegalEC, 0xEC), (.illegalED, 0xED),
      (.illegalF4, 0xF4), (.illegalFC, 0xFC), (.illegalFD, 0xFD)] →
    encodedAs i [op] ∧
    exec i s = .fault (.decodeFault op (s.read16 .pc - 1) s) ∧
    (running s → isStorage (s.read16 .pc) = true → s.byteAt (s.read16 .pc) = op →
      step s = .fault (.decodeFault op (s.read16 .pc) (s.write16 .pc (s.read16 .pc + 1))))

/-- R296: 0xCB and a second byte are read as the instruction the second byte selects, and the prefix row with that byte
has exactly that instruction's effect. The prefix constructor itself is the model's choice (notes/assumptions/4.md). -/
def Obligations.PrefixRunsTheSelectedInstruction : Prop :=
  ∀ (cb : Byte) (rest : List Byte) (s : State),
    encode (.prefixCb cb) = [0xCB, cb] ∧
    decode (0xCB :: cb :: rest) = .ok (decodeCb cb, rest) ∧
    exec (.prefixCb cb) s = exec (decodeCb cb) s ∧
    (operandReachable (R8.ofBits (fieldB cb)) s →
      ∃ t, exec (.prefixCb cb) s = .next t ∧ exec (decodeCb cb) s = .next t)

/-- The BCD law (95_test_vectors.md section 2.8; 46_daa_misc.md R291): on two-digit packed BCD operands, `ADC` then `DAA`
is decimal addition with carry and `SBC` then `DAA` decimal subtraction with borrow. -/
def Obligations.DaaMakesAdcAndSbcDecimal : Prop :=
  ∀ (x y : Nat) (s : State), x < 100 → y < 100 → s.read8 .a = bcd x →
    (∃ t u, exec (.adcAImm8 (bcd y)) s = .next t ∧ exec .daa t = .next u ∧
      u.read8 .a = bcd ((x + y + carryIn s) % 100) ∧
      (u.readFlag .c = true ↔ x + y + carryIn s ≥ 100) ∧
      (u.readFlag .z = true ↔ (x + y + carryIn s) % 100 = 0) ∧ u.readFlag .h = false) ∧
    (∃ t u, exec (.sbcAImm8 (bcd y)) s = .next t ∧ exec .daa t = .next u ∧
      u.read8 .a = bcd ((x + 200 - y - carryIn s) % 100) ∧
      (u.readFlag .c = true ↔ x < y + carryIn s) ∧
      (u.readFlag .z = true ↔ (x + 200 - y - carryIn s) % 100 = 0) ∧ u.readFlag .h = false)

/-- R291, an inference the spec marks as its own: `DAA` is the only reader of N and H. Two states that agree but for N and
H execute any other instruction alike and still agree but for N and H, or raise the same fault. `PUSH AF` is left out: it
copies F as a byte (10_state.md R29). -/
def Obligations.OnlyDaaReadsNAndH : Prop :=
  ∀ (i : Instr) (s s' : State), i ≠ .daa → i ≠ .pushR16stk .af → agreeButNH s s' →
    (∀ t, exec i s = .next t → ∃ t', exec i s' = .next t' ∧ agreeButNH t t') ∧
    raised (exec i s') = raised (exec i s)

/-! ## 20_memory.md -/

/-- R63, an inference the spec marks as its own: the segment of an address as a function of its bits is the range table's
segment. -/
def Obligations.SegmentDecoderReadsAddressBits : Prop :=
  ∀ addr : Word,
    (segmentOf addr = .romBank0 ↔ addr.extractLsb' 14 2 = 0b00) ∧
    (segmentOf addr = .romSwitchable ↔ addr.extractLsb' 14 2 = 0b01) ∧
    (segmentOf addr = .vram ↔ addr.extractLsb' 13 3 = 0b100) ∧
    (segmentOf addr = .externalRam ↔ addr.extractLsb' 13 3 = 0b101) ∧
    (segmentOf addr = .workRam0 ↔ addr.extractLsb' 12 4 = 0b1100) ∧
    (segmentOf addr = .workRamSwitchable ↔ addr.extractLsb' 12 4 = 0b1101) ∧
    (segmentOf addr = .echoRam ↔ addr.extractLsb' 13 3 = 0b111 ∧ addr.toNat < 0xFE00) ∧
    (segmentOf addr = .oam ↔ addr.extractLsb' 8 8 = 0xFE ∧ (addr.extractLsb' 0 8).toNat ≤ 0x9F) ∧
    (segmentOf addr = .unmapped ↔ addr.extractLsb' 8 8 = 0xFE ∧ (addr.extractLsb' 0 8).toNat ≥ 0xA0) ∧
    (segmentOf addr = .io ↔ addr.extractLsb' 8 8 = 0xFF ∧ addr.extractLsb' 7 1 = 0) ∧
    (segmentOf addr = .highRam ↔ addr.extractLsb' 8 8 = 0xFF ∧ addr.extractLsb' 7 1 = 1 ∧ addr ≠ 0xFFFF) ∧
    (segmentOf addr = .ie ↔ addr = 0xFFFF)

/-- R64, R65: a byte access to 0xE000 to 0xFDFF or 0xFEA0 to 0xFEFF raises BusFault; elsewhere a read returns the byte and
a write stores it, changing no other byte and no other state. -/
def Obligations.ByteAccesses : Prop :=
  ∀ (addr : Word) (v : Byte) (kind : AccessKind) (s : State) (faulting : Prop),
    (faulting ↔ (0xE000 ≤ addr.toNat ∧ addr.toNat ≤ 0xFDFF) ∨ (0xFEA0 ≤ addr.toNat ∧ addr.toNat ≤ 0xFEFF)) →
    (¬ faulting → readByte kind addr s = .ok (s.byteAt addr)) ∧
    (faulting → ∃ f, readByte kind addr s = .error f ∧ f.record = .busFault addr kind) ∧
    (¬ faulting → ∃ t, writeByte addr v s = .ok t ∧ t.byteAt addr = v ∧ frame [] [] [addr] s t) ∧
    (faulting → ∃ f, writeByte addr v s = .error f ∧ f.record = .busFault addr .write)

/-- R66, R67: a word access is two byte accesses, low byte first, the second address modulo 65536; the first that faults
is reported, and a write whose second byte faults has written the first. -/
def Obligations.WordAccesses : Prop :=
  ∀ (addr v : Word) (s : State),
    (isStorage addr = true → isStorage (addr + 1) = true →
      readWord addr s = .ok (combine (s.byteAt (addr + 1)) (s.byteAt addr)) ∧
      ∃ t, writeWord addr v s = .ok t ∧ t.byteAt addr = lo v ∧ t.byteAt (addr + 1) = hi v ∧
        frame [] [] [addr, addr + 1] s t) ∧
    (isStorage addr = false →
      (∃ f, readWord addr s = .error f ∧ f.record = .busFault addr .read) ∧
      (∃ f, writeWord addr v s = .error f ∧ f.record = .busFault addr .write ∧ f.here = s)) ∧
    (isStorage addr = true → isStorage (addr + 1) = false →
      (∃ f, readWord addr s = .error f ∧ f.record = .busFault (addr + 1) .read) ∧
      (∃ f, writeWord addr v s = .error f ∧ f.record = .busFault (addr + 1) .write ∧
        f.here.byteAt addr = lo v ∧ frame [] [] [addr] s f.here))

/-- The round trip of R68, an inference the spec marks as its own: a word written reads back exactly when both addresses
are storage; otherwise both accesses fault. -/
def Obligations.WordRoundTrip : Prop :=
  ∀ (addr v : Word) (s : State),
    (isStorage addr = true ∧ isStorage (addr + 1) = true ↔
      ∃ t, writeWord addr v s = .ok t ∧ readWord addr t = .ok v) ∧
    (isStorage addr = true ∧ isStorage (addr + 1) = true ↔ ∃ w, readWord addr s = .ok w)

/-! ## 10_state.md -/

/-- R21, R22: a pair is its two halves, a written half reads back (F with bits 3:0 dropped) and no other half changes, and
a write of a pair is a write of both halves. -/
def Obligations.PairsAndHalves : Prop :=
  ∀ (s : State) (r r' : Reg8) (v : Byte) (w : Word),
    s.read16 .af = combine (s.read8 .a) (s.read8 .f) ∧ s.read16 .bc = combine (s.read8 .b) (s.read8 .c) ∧
    s.read16 .de = combine (s.read8 .d) (s.read8 .e) ∧ s.read16 .hl = combine (s.read8 .h) (s.read8 .l) ∧
    (s.write8 r v).read8 r = (if r = .f then v &&& 0xF0 else v) ∧
    (r' ≠ r → (s.write8 r v).read8 r' = s.read8 r') ∧
    (s.write16 .af w).read8 .a = hi w ∧ (s.write16 .af w).read8 .f = lo w &&& 0xF0 ∧
    (s.write16 .bc w).read8 .b = hi w ∧ (s.write16 .bc w).read8 .c = lo w ∧
    (s.write16 .de w).read8 .d = hi w ∧ (s.write16 .de w).read8 .e = lo w ∧
    (s.write16 .hl w).read8 .h = hi w ∧ (s.write16 .hl w).read8 .l = lo w

/-- R25 to R27: F is {Z, N, H, C, 0, 0, 0, 0} and every read of its bits 3:0 gives zero, where F[3:0] is zero as the
machine's invariant says; writes of F and AF and `POP AF` drop bits 3:0; a flag write reads back and leaves the other flags,
A and bits 3:0. -/
def Obligations.FlagRegister : Prop :=
  ∀ (s : State) (f g : Flag) (v : Bool) (b : Byte) (w : Word),
    (lowNibbleClear s → (s.read8 .f).toNat = 128 * (s.readFlag .z).toNat + 64 * (s.readFlag .n).toNat +
      32 * (s.readFlag .h).toNat + 16 * (s.readFlag .c).toNat) ∧
    (lowNibbleClear s → s.read16 .af &&& 0x000F = 0 ∧
      (canPush s → ∃ t, exec (.pushR16stk .af) s = .next t ∧ t.byteAt (t.read16 .sp) &&& 0x0F = 0)) ∧
    (canPop s → ∃ t, exec (.popR16stk .af) s = .next t ∧ t.read8 .f = lo (stackTop s) &&& 0xF0) ∧
    (s.write8 .f b).read8 .f = b &&& 0xF0 ∧ (s.write16 .af w).read16 .af = w &&& 0xFFF0 ∧
    (s.writeFlag f v).readFlag f = v ∧ (g ≠ f → (s.writeFlag f v).readFlag g = s.readFlag g) ∧
    (s.writeFlag f v).read8 .a = s.read8 .a ∧ keepsLowNibble s (s.writeFlag f v)

/-- The whole-machine rule of 60_exceptions.md R321: only `DI`, `EI` and `RETI` write IME, only `HALT` writes halted, and
no instruction that completes records a fault. -/
def Obligations.OnlyFourInstructionsWriteControlState : Prop :=
  ∀ (i : Instr) (s t : State), exec i s = .next t →
    (t.ime ≠ s.ime → i = .di ∨ i = .ei ∨ i = .reti) ∧ (t.halted ≠ s.halted → i = .halt) ∧ t.fault = s.fault

/-- The whole-machine rule of 10_state.md R38: the executor writes PC only in `JR`, `JP`, `JP HL`, `CALL`, `RET`, `RETI`
and `RST`. -/
def Obligations.OnlyTransfersWritePc : Prop :=
  ∀ (i : Instr) (s t : State), exec i s = .next t → t.read16 .pc ≠ s.read16 .pc →
    (∃ e8, i = .jrE8 e8) ∨ (∃ cc e8, i = .jrCcE8 cc e8) ∨ (∃ a16, i = .jpA16 a16) ∨
    (∃ cc a16, i = .jpCcA16 cc a16) ∨ i = .jpHl ∨ (∃ a16, i = .callA16 a16) ∨
    (∃ cc a16, i = .callCcA16 cc a16) ∨ i = .ret ∨ i = .reti ∨ (∃ cc, i = .retCc cc) ∨ (∃ n, i = .rstVec n)

/-! ## 60_exceptions.md and 70_reset_and_hazards.md -/

/-- No other synchronous exception exists (R313, an inference the spec marks as its own from R310 and R311): executing a
term is never refused; it faults only with DecodeFault of its own byte on one of the twelve rows that are no instruction, or
with BusFault at an address without storage on an instruction with a data access; every other one completes in every state.
That executing the twelve rows raises their DecodeFault is the model's own (notes/assumptions/3.md: R310 says the decoder
raises it), and so is the meaning of the ill-formed terms that the statement takes in (notes/assumptions/9.md). -/
def Obligations.NoOtherFaults : Prop :=
  ∀ (i : Instr) (s : State),
    (∀ r, exec i s ≠ .refused r) ∧
    (∀ f, exec i s = .fault f →
      (noInstruction i = true ∧ ∃ op, encode i = [op] ∧ f.record = .decodeFault op (s.read16 .pc - 1)) ∨
      (accessesData i = true ∧ ∃ addr kind, f.record = .busFault addr kind ∧ isStorage addr = false)) ∧
    (noInstruction i = false → accessesData i = false → ∃ t, exec i s = .next t)

/-- A step runs the decoded instruction (R316 with 10_state.md R37): when the bytes at PC decode to `i`, leaving `rest` of
the three, and the bytes of `i` can be fetched, the step is `exec i` with PC past those bytes. -/
def Obligations.StepRunsTheDecodedInstruction : Prop :=
  ∀ (s : State) (i : Instr) (rest : List Byte), running s → decode (windowAtPc s) = .ok (i, rest) →
    (∀ k, k < 3 - rest.length → isStorage (s.read16 .pc + BitVec.ofNat 16 k) = true) →
    step s = exec i (s.write16 .pc (s.read16 .pc + BitVec.ofNat 16 (3 - rest.length)))

/-- The order of fetch faults (R317, 20_memory.md R82): the first byte of the instruction at PC that cannot be fetched
raises BusFault with kind fetch, and nothing is executed. -/
def Obligations.FetchFaultsInOrder : Prop :=
  ∀ (s : State) (i : Instr) (rest : List Byte) (k : Nat), running s → decode (windowAtPc s) = .ok (i, rest) →
    k < 3 - rest.length → (∀ j, j < k → isStorage (s.read16 .pc + BitVec.ofNat 16 j) = true) →
    isStorage (s.read16 .pc + BitVec.ofNat 16 k) = false →
    raised (step s) = some (.busFault (s.read16 .pc + BitVec.ofNat 16 k) .fetch)

/-- `tick` refines `step` (R312, R316): a tick that completes is the step with a count, a tick that faults records what
the step's fault records, whatever FAULT_STATE leaves of the rest, and no tick is taken exactly of a machine whose fault is
recorded. What `step` answers of such a machine, `runOver`, is the model's own (notes/assumptions/7.md). -/
def Obligations.TickRefinesStep : Prop :=
  ∀ (s : State) (faultState : FaultState),
    (∀ (r : FaultRecord) (p : TickParams), s.fault = some r → tick p s = .noStep) ∧
    match tick (TickParams.standard faultState) s with
    | .next t _ => step s = .next t ∧ s.halted = false
    | .idle t c => step s = .next t ∧ t = s ∧ c = 1 ∧ s.halted = true
    | .faulted t => (∃ f, step s = .fault f ∧ t.fault = some f.record) ∧ ∀ p : TickParams, tick p t = .noStep
    | .noStep => ∃ r, s.fault = some r ∧ step s = .fault (.runOver r s)
    | .refused _ => False

/-- Cycle counts (R350, R351, on the default table of R352): only a conditional form's count depends on the state, an
untaken conditional is cheaper than a taken one, and `JR cc` costs 3 taken and 2 untaken. -/
def Obligations.UntakenConditionalsAreCheaper : Prop :=
  (∀ (i : Instr) (s s' : State),
    (∀ cc e8, i ≠ .jrCcE8 cc e8) → (∀ cc a16, i ≠ .jpCcA16 cc a16) → (∀ cc a16, i ≠ .callCcA16 cc a16) →
    (∀ cc, i ≠ .retCc cc) → defaultCycles i s = defaultCycles i s') ∧
  (∀ (cc : Cond) (e8 : Byte) (a16 : Word) (s s' : State), condMeans cc s → ¬ condMeans cc s' →
    defaultCycles (.jrCcE8 cc e8) s = 3 ∧ defaultCycles (.jrCcE8 cc e8) s' = 2 ∧
    (defaultCycles (.jpCcA16 cc a16) s').toNat < (defaultCycles (.jpCcA16 cc a16) s).toNat ∧
    (defaultCycles (.callCcA16 cc a16) s').toNat < (defaultCycles (.callCcA16 cc a16) s).toNat ∧
    (defaultCycles (.retCc cc) s').toNat < (defaultCycles (.retCc cc) s).toNat)

/-- R341, R342: at power-on every register and flag is 0, every byte of memory is 0x00, IME and halted are 0, no fault is
recorded, and the first opcode is fetched from 0x0000: a one-byte instruction stored there is what the first step runs. -/
def Obligations.PowerOnState : Prop :=
  (∀ r : Reg16, State.reset.read16 r = 0x0000) ∧ (∀ r : Reg8, State.reset.read8 r = 0x00) ∧
  (∀ f : Flag, State.reset.readFlag f = false) ∧ (∀ addr : Word, State.reset.byteAt addr = 0x00) ∧
  State.reset.ime = false ∧ State.reset.halted = false ∧ State.reset.fault = none ∧
  (∀ (op : Byte) (i : Instr), decode [op] = .ok (i, []) →
    step (State.reset.putByte 0x0000 op) = exec i ((State.reset.putByte 0x0000 op).write16 .pc 0x0001))

/-- Every step keeps the invariant: F[3:0] stays zero (10_state.md R26), memory stays in canonical form with storage
addresses only (10_state.md R48), and no fault is recorded in a next state (10_state.md R45). The canonical form is the
model's own (notes/assumptions/8.md). -/
def Obligations.EveryStepKeepsTheInvariant : Prop :=
  ∀ s t : State, s.Inv → step s = .next t → t.Inv

/-- What the host does between ticks (R328): every accessor and bus operation that is answered, and the loading of an image
that completes, keep the invariant, and keep a fault record that is there already (10_state.md R45). An access to an address
without storage raises BusFault like any other (R311): the record becomes that fault, unless one is there already, and no
further tick is taken (R312), whatever FAULT_STATE leaves of the rest. The canonical form of memory in the invariant is the
model's own (notes/assumptions/8.md), and so are the kinds read and write of a host's access (notes/assumptions/13.md) and
that the host may still act on a machine whose fault is recorded (notes/assumptions/15.md). -/
def Obligations.HostKeepsTheInvariant : Prop :=
  ∀ (s : State) (faultState : FaultState),
    (∀ (reply : HostReply) (t : State),
      (∃ act, hostAct faultState act s = .answered reply t) ∨ (∃ image, loadImage faultState image s = .answered reply t) →
      (s.Inv → t.Inv) ∧ t.fault = s.fault) ∧
    (∀ t : State, (∃ act, hostAct faultState act s = .faulted t) ∨ (∃ image, loadImage faultState image s = .faulted t) →
      (s.fault = none → ∃ addr kind, t.fault = some (.busFault addr kind) ∧ isStorage addr = false ∧ kind ≠ .fetch) ∧
      (∀ r, s.fault = some r → t.fault = some r) ∧
      ∀ p : TickParams, tick p t = .noStep) ∧
    (∀ (addr : Word) (v : Byte) (w : Word), isStorage addr = false → s.fault = none →
      (∃ t, hostAct faultState (.readByte addr) s = .faulted t ∧ t.fault = some (.busFault addr .read)) ∧
      (∃ t, hostAct faultState (.writeByte addr v) s = .faulted t ∧ t.fault = some (.busFault addr .write)) ∧
      (∃ t, hostAct faultState (.readWord addr) s = .faulted t ∧ t.fault = some (.busFault addr .read)) ∧
      (∃ t, hostAct faultState (.writeWord addr w) s = .faulted t ∧ t.fault = some (.busFault addr .write)))

/-- The invariant holds at power-on: F[3:0] is zero and no fault is recorded (10_state.md R50). The canonical form of memory
in it is the model's own (notes/assumptions/8.md). -/
def Obligations.PowerOnMeetsTheInvariant : Prop := State.reset.Inv

/-! ## 30_encoding.md -/

/-- Decoding an encoded well-formed instruction gives it back, whatever follows it; the prefix row's bytes decode to the
instruction its second byte selects. -/
def Obligations.DecodeOfEncodeIsTheInstruction : Prop :=
  (∀ (i : Instr) (rest : List Byte), i.wf = true → decode (encode i ++ rest) = .ok (i, rest)) ∧
  (∀ (cb : Byte) (rest : List Byte), decode (encode (.prefixCb cb) ++ rest) = .ok (decodeCb cb, rest))

/-- Encoding a decoded instruction gives its bytes back, and it is well formed: each byte string has one meaning (R120). -/
def Obligations.EncodeOfDecodeIsTheBytes : Prop :=
  ∀ (bytes rest : List Byte) (i : Instr), decode bytes = .ok (i, rest) → i.wf = true ∧ encode i ++ rest = bytes

/-- The selector tables of 10_state.md R30 to R34, each value with the register, address or condition it selects, and words
written out from the spec's own encodings: GBE's anchors 0x3E, 0x06, 0x80 and 0x76 of R110, one CB word, one word with an
operand word, and for each table one word of each selector that these leave open. -/
def Obligations.AnchorWordsDecodeRight : Prop :=
  [R8.b, .c, .d, .e, .h, .l, .hlMem, .a].map R8.bits = [0, 1, 2, 3, 4, 5, 6, 7] ∧
  (∀ s : State, [R8.b, .c, .d, .e, .h, .l, .a].map (readR8 · s) =
    [.ok (s.read8 .b), .ok (s.read8 .c), .ok (s.read8 .d), .ok (s.read8 .e), .ok (s.read8 .h), .ok (s.read8 .l),
      .ok (s.read8 .a)] ∧ readR8 .hlMem s = readByte .read (s.read16 .hl) s) ∧
  [R16.bc, .de, .hl, .sp].map R16.bits = [0, 1, 2, 3] ∧
  [R16.bc, .de, .hl, .sp].map slotOfR16 = [.bc, .de, .hl, .sp] ∧
  [R16Mem.bc, .de, .hlInc, .hlDec].map R16Mem.bits = [0, 1, 2, 3] ∧
  (∀ s : State,
    [R16Mem.bc, .de, .hlInc, .hlDec].map (addrOfR16Mem · s) = [s.read16 .bc, s.read16 .de, s.read16 .hl, s.read16 .hl] ∧
    [R16Mem.bc, .de, .hlInc, .hlDec].map (stepR16Mem · s) =
      [s, s, s.write16 .hl (s.read16 .hl + 1), s.write16 .hl (s.read16 .hl - 1)]) ∧
  [R16Stk.bc, .de, .hl, .af].map R16Stk.bits = [0, 1, 2, 3] ∧
  [R16Stk.bc, .de, .hl, .af].map slotOfR16Stk = [.bc, .de, .hl, .af] ∧
  [Cond.nz, .z, .nc, .c].map Cond.bits = [0, 1, 2, 3] ∧
  (∀ s : State, [Cond.nz, .z, .nc, .c].map (condHolds · s) =
    [!s.readFlag .z, s.readFlag .z, !s.readFlag .c, s.readFlag .c]) ∧
  decode [0x3E, 0x05] = .ok (.ldR8Imm8 .a 0x05, []) ∧ decode [0x06, 0x03] = .ok (.ldR8Imm8 .b 0x03, []) ∧
  decode [0x80] = .ok (.addAR8 .b, []) ∧ decode [0x76] = .ok (.halt, []) ∧
  decode [0xCB, 0x7C] = .ok (.bitNR8 7 .h, []) ∧ decode [0xC3, 0x50, 0x01] = .ok (.jpA16 0x0150, []) ∧
  decode [0x4A] = .ok (.ldR8R8 .c .d, []) ∧ decode [0x5D] = .ok (.ldR8R8 .e .l, []) ∧
  decode [0x86] = .ok (.addAR8 .hlMem, []) ∧
  decode [0x01, 0x34, 0x12] = .ok (.ldR16Imm16 .bc 0x1234, []) ∧ decode [0x13] = .ok (.incR16 .de, []) ∧
  decode [0x29] = .ok (.addHlR16 .hl, []) ∧ decode [0x3B] = .ok (.decR16 .sp, []) ∧
  decode [0x02] = .ok (.ldR16MemA .bc, []) ∧ decode [0x1A] = .ok (.ldAR16Mem .de, []) ∧
  decode [0x22] = .ok (.ldR16MemA .hlInc, []) ∧ decode [0x3A] = .ok (.ldAR16Mem .hlDec, []) ∧
  decode [0xC5] = .ok (.pushR16stk .bc, []) ∧ decode [0xD1] = .ok (.popR16stk .de, []) ∧
  decode [0xE5] = .ok (.pushR16stk .hl, []) ∧ decode [0xF1] = .ok (.popR16stk .af, []) ∧
  decode [0x20, 0x05] = .ok (.jrCcE8 .nz 0x05, []) ∧ decode [0xCA, 0x50, 0x01] = .ok (.jpCcA16 .z 0x0150, []) ∧
  decode [0xD4, 0x50, 0x01] = .ok (.callCcA16 .nc 0x0150, []) ∧ decode [0xD8] = .ok (.retCc .c, [])
end

