-- ==== Sys2Proof/Laws/Bits.lean ====
section
/-! SUPPORT. The small lemmas of hi, lo, combine, sext16 and highAddr, bit by bit and as numbers. -/

namespace Sys2Proof.Machine

theorem getLsbD_combine (h l : Byte) (i : Nat) :
    (combine h l).getLsbD i = if i < 8 then l.getLsbD i else h.getLsbD (i - 8) := by
  rw [combine]; exact BitVec.getLsbD_append

theorem toNat_combine (h l : Byte) : (combine h l).toNat = h.toNat * 256 + l.toNat := by
  have joined := BitVec.toNat_append h l
  rw [Nat.shiftLeft_eq] at joined
  have split : h.toNat * 2 ^ 8 ||| l.toNat = h.toNat * 2 ^ 8 + l.toNat := by
    rw [Nat.mul_comm]; exact (Nat.two_pow_add_eq_or_of_lt l.isLt h.toNat).symm
  exact joined.trans split

theorem toNat_hi (w : Word) : (hi w).toNat = w.toNat / 256 := by
  simp only [hi, BitVec.extractLsb'_toNat, Nat.shiftRight_eq_div_pow]; omega

theorem toNat_lo (w : Word) : (lo w).toNat = w.toNat % 256 := by simp [lo]

theorem getLsbD_hi (w : Word) (i : Nat) : (hi w).getLsbD i = (decide (i < 8) && w.getLsbD (8 + i)) := by
  simp [hi]

theorem getLsbD_lo (w : Word) (i : Nat) : (lo w).getLsbD i = (decide (i < 8) && w.getLsbD i) := by
  simp [lo]

@[simp] theorem hi_combine (h l : Byte) : hi (combine h l) = h := by
  apply BitVec.eq_of_toNat_eq; rw [toNat_hi, toNat_combine]; omega

@[simp] theorem lo_combine (h l : Byte) : lo (combine h l) = l := by
  apply BitVec.eq_of_toNat_eq; rw [toNat_lo, toNat_combine]; omega

@[simp] theorem combine_hi_lo (w : Word) : combine (hi w) (lo w) = w := by
  apply BitVec.eq_of_toNat_eq; rw [toNat_combine, toNat_hi, toNat_lo]; omega

/-- `w +_16 sext_16(e8)` as a number: an operand byte of 128 or more counts as itself minus 256. -/
theorem toNat_add_sext16 (w : Word) (e8 : Byte) :
    (w + sext16 e8).toNat =
      if e8.toNat < 128 then (w.toNat + e8.toNat) % 65536 else (w.toNat + 65536 + e8.toNat - 256) % 65536 := by
  have ext : (sext16 e8).toNat = if e8.toNat < 128 then e8.toNat else e8.toNat + 65280 := by
    revert e8; decide
  rw [BitVec.toNat_add, ext]
  split <;> omega

theorem highAddr_eq_add (v : Byte) : highAddr v = 0xFF00 + v.zeroExtend 16 := by
  revert v; decide

end Sys2Proof.Machine
end

