-- ==== Sys2Proof/Laws/Memory.lean ====
section
/-! SUPPORT. Memory as a map: what a byte reads as after a store, for any memory, and that every operation keeps the
canonical form. -/

namespace Sys2Proof.Machine

/-! ## Reading after writing -/

theorem Memory.get_erase (m : Memory) (a b : Nat) :
    Memory.get (Memory.erase m a) b = if b = a then Config.unwritten else Memory.get m b := by
  induction m with
  | nil => simp [Memory.erase, Memory.get]
  | cons c m ih =>
    obtain ⟨k, w⟩ := c
    simp only [Memory.erase, Memory.get]
    by_cases hka : k = a
    · subst hka
      rw [if_pos rfl, ih]
      by_cases hkb : b = k
      · rw [if_pos hkb, if_pos hkb]
      · rw [if_neg hkb, if_neg hkb, if_neg (Ne.symm hkb)]
    · by_cases hkb : k = b
      · subst hkb; simp [hka, Memory.get]
      · simp [hka, hkb, Memory.get, ih]

theorem Memory.get_insert (m : Memory) (a b : Nat) (v : Byte) (absent : ∀ c ∈ m, c.1 ≠ a) :
    Memory.get (Memory.insert m a v) b = if b = a then v else Memory.get m b := by
  induction m with
  | nil => simp [Memory.insert, Memory.get, eq_comm]
  | cons c m ih =>
    obtain ⟨k, w⟩ := c
    have hka : k ≠ a := absent (k, w) (by simp)
    have rest := ih fun c hc => absent c (by simp [hc])
    by_cases lt : a < k
    · simp [Memory.insert, lt, Memory.get, eq_comm]
    · by_cases hkb : k = b
      · subst hkb; simp [Memory.insert, lt, Memory.get, hka]
      · simp [Memory.insert, lt, Memory.get, hkb, rest]

theorem Memory.mem_erase {m : Memory} {a : Nat} {c : Host.Cell} : c ∈ Memory.erase m a ↔ c ∈ m ∧ c.1 ≠ a := by
  induction m with
  | nil => simp [Memory.erase]
  | cons d m ih =>
    obtain ⟨k, w⟩ := d
    simp only [Memory.erase]
    by_cases hka : k = a
    · subst hka
      rw [if_pos rfl, ih]
      constructor
      · rintro ⟨h, ne⟩; exact ⟨List.mem_cons_of_mem _ h, ne⟩
      · rintro ⟨h, ne⟩
        rcases List.mem_cons.1 h with rfl | h
        · exact absurd rfl ne
        · exact ⟨h, ne⟩
    · rw [if_neg hka, List.mem_cons, List.mem_cons, ih]
      constructor
      · rintro (rfl | ⟨h, ne⟩)
        · exact ⟨.inl rfl, hka⟩
        · exact ⟨.inr h, ne⟩
      · rintro ⟨rfl | h, ne⟩
        · exact .inl rfl
        · exact .inr ⟨h, ne⟩

theorem Memory.mem_insert {m : Memory} {a : Nat} {v : Byte} {c : Host.Cell} :
    c ∈ Memory.insert m a v ↔ c = (a, v) ∨ c ∈ m := by
  induction m with
  | nil => simp [Memory.insert]
  | cons d m ih =>
    obtain ⟨k, w⟩ := d
    simp only [Memory.insert]
    split
    · simp
    · simp only [List.mem_cons, ih]; tauto

/-- A store is read back, and every other address reads as before. -/
theorem Memory.get_set (m : Memory) (a : Nat) (v : Byte) (b : Nat) :
    Memory.get (Memory.set m a v) b = if b = a then v else Memory.get m b := by
  unfold Memory.set
  split
  · rename_i h; simp [Memory.get_erase, h]
  · rw [Memory.get_insert _ _ _ _ fun c hc => (Memory.mem_erase.1 hc).2, Memory.get_erase]
    split <;> rfl

/-! ## The canonical form -/

theorem Memory.erase_sorted {m : Memory} (h : m.Pairwise fun c c' => c.1 < c'.1) (a : Nat) :
    (Memory.erase m a).Pairwise fun c c' => c.1 < c'.1 := by
  induction m with
  | nil => exact h
  | cons d m ih =>
    obtain ⟨k, w⟩ := d
    rw [List.pairwise_cons] at h
    simp only [Memory.erase]
    split
    · exact ih h.2
    · exact List.pairwise_cons.2 ⟨fun c hc => h.1 c (Memory.mem_erase.1 hc).1, ih h.2⟩

theorem Memory.insert_sorted {m : Memory} (h : m.Pairwise fun c c' => c.1 < c'.1) (a : Nat) (v : Byte)
    (absent : ∀ c ∈ m, c.1 ≠ a) : (Memory.insert m a v).Pairwise fun c c' => c.1 < c'.1 := by
  induction m with
  | nil => simp [Memory.insert]
  | cons d m ih =>
    obtain ⟨k, w⟩ := d
    have tail := List.pairwise_cons.1 h
    have hka : k ≠ a := absent (k, w) (by simp)
    simp only [Memory.insert]
    split
    · rename_i lt
      refine List.pairwise_cons.2 ⟨fun c hc => ?_, h⟩
      rcases List.mem_cons.1 hc with rfl | hc
      · exact lt
      · exact Nat.lt_trans lt (tail.1 c hc)
    · rename_i ge
      refine List.pairwise_cons.2 ⟨fun c hc => ?_, ih tail.2 fun c hc => absent c (by simp [hc])⟩
      rcases Memory.mem_insert.1 hc with rfl | hc
      · show k < a
        omega
      · exact tail.1 c hc

/-- The empty memory of power-on is in canonical form. -/
theorem Memory.wf_nil : Memory.wf [] := ⟨List.Pairwise.nil, by simp⟩

/-- A store at a storage address keeps the canonical form. -/
theorem Memory.wf_set {m : Memory} (h : Memory.wf m) (a : Word) (v : Byte) (stored : isStorage a = true) :
    Memory.wf (Memory.set m a.toNat v) := by
  have cells : ∀ c ∈ Memory.erase m a.toNat,
      c.1 < 65536 ∧ isStorage (BitVec.ofNat 16 c.1) = true ∧ c.2 ≠ Config.unwritten :=
    fun c hc => h.2 c (Memory.mem_erase.1 hc).1
  unfold Memory.set
  split
  · exact ⟨Memory.erase_sorted h.1 _, cells⟩
  · rename_i ne
    refine ⟨Memory.insert_sorted (Memory.erase_sorted h.1 _) _ _ fun c hc => (Memory.mem_erase.1 hc).2, ?_⟩
    intro c hc
    rcases Memory.mem_insert.1 hc with rfl | hc
    · exact ⟨a.isLt, by simpa using stored, ne⟩
    · exact cells c hc

end Sys2Proof.Machine
end

