-- ==== Sys2Proof/Laws/State.lean ====
section
/-! SUPPORT. What each accessor reads after each update of the state: one lemma per observation per update, so that no
proof unfolds a record update. -/

namespace Sys2Proof.Machine

/-! ## read8 -/

theorem read8_write8 (s : State) (r r' : Reg8) (v : Byte) :
    (s.write8 r v).read8 r' = if r' = r then (if r = .f then v &&& 0xF0 else v) else s.read8 r' := by
  cases r <;> cases r' <;> simp [State.write8, State.read8]

@[simp] theorem read8_write8_self (s : State) (r : Reg8) (v : Byte) (h : r ≠ .f) : (s.write8 r v).read8 r = v := by
  simp [read8_write8, h]

@[simp] theorem read8_write8_ne (s : State) (r r' : Reg8) (v : Byte) (h : r' ≠ r) :
    (s.write8 r v).read8 r' = s.read8 r' := by
  simp [read8_write8, h]

/-- The bits of AF after a flag write. -/
theorem getLsbD_af_writeFlag (s : State) (f : Flag) (v : Bool) (i : Nat) (h : i < 16) :
    (s.writeFlag f v).af.getLsbD i = if i = flagBit f then v else s.af.getLsbD i := by
  have bit : ∀ j : Fin 16, (1#16 <<< flagBit f).getLsbD j.1 = decide (j.1 = flagBit f) := by cases f <;> decide
  have at_i : (1#16 <<< flagBit f).getLsbD i = decide (i = flagBit f) := bit ⟨i, h⟩
  cases v <;>
    simp only [State.writeFlag, Bool.false_eq_true, if_true, if_false, BitVec.getLsbD_or, BitVec.getLsbD_and,
      BitVec.getLsbD_not, at_i, h, decide_true, Bool.true_and] <;>
    split <;> rename_i same <;> simp [same]

@[simp] theorem read8_writeFlag (s : State) (f : Flag) (v : Bool) (r : Reg8) (h : r ≠ .f) :
    (s.writeFlag f v).read8 r = s.read8 r := by
  cases r with
  | a =>
    apply BitVec.eq_of_getLsbD_eq
    intro i hi
    have ne : ¬ 8 + i = flagBit f := by cases f <;> simp [flagBit] <;> omega
    simp only [State.read8, getLsbD_hi, getLsbD_af_writeFlag s f v (8 + i) (by omega), ne, if_false]
  | f => exact absurd rfl h
  | _ => rfl

@[simp] theorem read8_putByte (s : State) (a : Word) (v : Byte) (r : Reg8) : (s.putByte a v).read8 r = s.read8 r := by
  cases r <;> rfl

@[simp] theorem read8_writeIme (s : State) (v : Bool) (r : Reg8) : (s.writeIme v).read8 r = s.read8 r := by
  cases r <;> rfl

@[simp] theorem read8_writeHalted (s : State) (v : Bool) (r : Reg8) : (s.writeHalted v).read8 r = s.read8 r := by
  cases r <;> rfl

@[simp] theorem read8_write16_sp (s : State) (v : Word) (r : Reg8) : (s.write16 .sp v).read8 r = s.read8 r := by
  cases r <;> rfl

@[simp] theorem read8_write16_pc (s : State) (v : Word) (r : Reg8) : (s.write16 .pc v).read8 r = s.read8 r := by
  cases r <;> rfl

theorem read8_write16_bc (s : State) (v : Word) (r : Reg8) :
    (s.write16 .bc v).read8 r = if r = .b then hi v else if r = .c then lo v else s.read8 r := by
  cases r <;> rfl

theorem read8_write16_de (s : State) (v : Word) (r : Reg8) :
    (s.write16 .de v).read8 r = if r = .d then hi v else if r = .e then lo v else s.read8 r := by
  cases r <;> rfl

theorem read8_write16_hl (s : State) (v : Word) (r : Reg8) :
    (s.write16 .hl v).read8 r = if r = .h then hi v else if r = .l then lo v else s.read8 r := by
  cases r <;> rfl

theorem read8_write16_af (s : State) (v : Word) (r : Reg8) :
    (s.write16 .af v).read8 r = if r = .a then hi v else if r = .f then lo v &&& 0xF0 else s.read8 r := by
  cases r with
  | a =>
    apply BitVec.eq_of_getLsbD_eq
    intro i h
    have kept : BitVec.getLsbD (0xFFF0 : Word) (8 + i) = true :=
      (by decide : ∀ i : Fin 8, BitVec.getLsbD (0xFFF0 : Word) (8 + i) = true) ⟨i, h⟩
    simp only [State.read8, State.write16, getLsbD_hi, BitVec.getLsbD_and, kept, Bool.and_true, if_true]
  | f =>
    apply BitVec.eq_of_getLsbD_eq
    intro i h
    have kept : BitVec.getLsbD (0xFFF0 : Word) i = BitVec.getLsbD (0xF0 : Byte) i :=
      (by decide : ∀ i : Fin 8, BitVec.getLsbD (0xFFF0 : Word) i.1 = BitVec.getLsbD (0xF0 : Byte) i.1) ⟨i, h⟩
    simp only [State.read8, State.write16, getLsbD_lo, BitVec.getLsbD_and, kept, reduceCtorEq, if_true, if_false,
      Bool.and_assoc]
  | _ => rfl

/-! ## read16 -/

@[simp] theorem read16_write16 (s : State) (r r' : Reg16) (v : Word) :
    (s.write16 r v).read16 r' = if r' = r then (if r = .af then v &&& 0xFFF0 else v) else s.read16 r' := by
  cases r <;> cases r' <;> rfl

@[simp] theorem read16_sp_write8 (s : State) (r : Reg8) (v : Byte) : (s.write8 r v).read16 .sp = s.read16 .sp := by
  cases r <;> rfl

@[simp] theorem read16_pc_write8 (s : State) (r : Reg8) (v : Byte) : (s.write8 r v).read16 .pc = s.read16 .pc := by
  cases r <;> rfl

@[simp] theorem read16_hl_write8_a (s : State) (v : Byte) : (s.write8 .a v).read16 .hl = s.read16 .hl := rfl

@[simp] theorem read16_writeFlag (s : State) (f : Flag) (v : Bool) (r : Reg16) (h : r ≠ .af) :
    (s.writeFlag f v).read16 r = s.read16 r := by
  cases r <;> first | rfl | exact absurd rfl h

@[simp] theorem read16_putByte (s : State) (a : Word) (v : Byte) (r : Reg16) :
    (s.putByte a v).read16 r = s.read16 r := by
  cases r <;> rfl

@[simp] theorem read16_writeIme (s : State) (v : Bool) (r : Reg16) : (s.writeIme v).read16 r = s.read16 r := by
  cases r <;> rfl

@[simp] theorem read16_writeHalted (s : State) (v : Bool) (r : Reg16) :
    (s.writeHalted v).read16 r = s.read16 r := by
  cases r <;> rfl

theorem read16_bc (s : State) : s.read16 .bc = combine (s.read8 .b) (s.read8 .c) := (combine_hi_lo _).symm

theorem read16_de (s : State) : s.read16 .de = combine (s.read8 .d) (s.read8 .e) := (combine_hi_lo _).symm

theorem read16_hl (s : State) : s.read16 .hl = combine (s.read8 .h) (s.read8 .l) := (combine_hi_lo _).symm

theorem read16_af (s : State) : s.read16 .af = combine (s.read8 .a) (s.read8 .f) := (combine_hi_lo _).symm

/-! ## readFlag -/

/-- A flag is a bit of F. -/
theorem readFlag_eq_read8 (s : State) (f : Flag) : s.readFlag f = (s.read8 .f).getLsbD (flagBit f) := by
  have low : flagBit f < 8 := by cases f <;> decide
  simp only [State.readFlag, State.read8, getLsbD_lo, low, decide_true, Bool.true_and]

theorem readFlag_writeFlag (s : State) (f g : Flag) (v : Bool) :
    (s.writeFlag f v).readFlag g = if g = f then v else s.readFlag g := by
  have lt : flagBit g < 16 := by cases g <;> decide
  have same : (flagBit g = flagBit f) = (g = f) := by cases f <;> cases g <;> decide
  simp only [State.readFlag, getLsbD_af_writeFlag s f v _ lt, same]

@[simp] theorem readFlag_writeFlag_self (s : State) (f : Flag) (v : Bool) : (s.writeFlag f v).readFlag f = v := by
  simp [readFlag_writeFlag]

@[simp] theorem readFlag_writeFlag_ne (s : State) (f g : Flag) (v : Bool) (h : g ≠ f) :
    (s.writeFlag f v).readFlag g = s.readFlag g := by
  simp [readFlag_writeFlag, h]

@[simp] theorem readFlag_write8 (s : State) (r : Reg8) (v : Byte) (f : Flag) (h : r ≠ .f) :
    (s.write8 r v).readFlag f = s.readFlag f := by
  rw [readFlag_eq_read8, readFlag_eq_read8, read8_write8_ne _ _ _ _ (Ne.symm h)]

@[simp] theorem readFlag_putByte (s : State) (a : Word) (v : Byte) (f : Flag) :
    (s.putByte a v).readFlag f = s.readFlag f := rfl

@[simp] theorem readFlag_writeIme (s : State) (v : Bool) (f : Flag) : (s.writeIme v).readFlag f = s.readFlag f := rfl

@[simp] theorem readFlag_writeHalted (s : State) (v : Bool) (f : Flag) :
    (s.writeHalted v).readFlag f = s.readFlag f := rfl

@[simp] theorem readFlag_write16 (s : State) (r : Reg16) (v : Word) (f : Flag) (h : r ≠ .af) :
    (s.write16 r v).readFlag f = s.readFlag f := by
  cases r <;> first | rfl | exact absurd rfl h

/-! ## F[3:0] -/

@[simp] theorem lowBit_write8 (s : State) (r : Reg8) (v : Byte) (i : Nat) (h : r ≠ .f) (low : i < 4) :
    (s.write8 r v).af.getLsbD i = s.af.getLsbD i := by
  have lt : i < 8 := by omega
  cases r
  case a => simp only [State.write8, getLsbD_combine, getLsbD_lo, lt, if_true, decide_true, Bool.true_and]
  all_goals first | rfl | exact absurd rfl h

@[simp] theorem lowBit_writeFlag (s : State) (f : Flag) (v : Bool) (i : Nat) (low : i < 4) :
    (s.writeFlag f v).af.getLsbD i = s.af.getLsbD i := by
  have ne : ¬ i = flagBit f := by cases f <;> simp [flagBit] <;> omega
  rw [getLsbD_af_writeFlag s f v i (by omega), if_neg ne]

@[simp] theorem af_putByte (s : State) (a : Word) (v : Byte) : (s.putByte a v).af = s.af := rfl

@[simp] theorem af_writeIme (s : State) (v : Bool) : (s.writeIme v).af = s.af := rfl

@[simp] theorem af_writeHalted (s : State) (v : Bool) : (s.writeHalted v).af = s.af := rfl

@[simp] theorem af_write16 (s : State) (r : Reg16) (v : Word) (h : r ≠ .af) : (s.write16 r v).af = s.af := by
  cases r <;> first | rfl | exact absurd rfl h

/-! ## Memory -/

@[simp] theorem byteAt_putByte (s : State) (a b : Word) (v : Byte) :
    (s.putByte a v).byteAt b = if b = a then v else s.byteAt b := by
  have same : (b.toNat = a.toNat) = (b = a) := propext BitVec.toNat_inj
  simp only [State.byteAt, State.putByte, Memory.get_set, same]

@[simp] theorem mem_write8 (s : State) (r : Reg8) (v : Byte) : (s.write8 r v).mem = s.mem := by cases r <;> rfl

@[simp] theorem mem_write16 (s : State) (r : Reg16) (v : Word) : (s.write16 r v).mem = s.mem := by cases r <;> rfl

@[simp] theorem mem_writeFlag (s : State) (f : Flag) (v : Bool) : (s.writeFlag f v).mem = s.mem := rfl

@[simp] theorem mem_writeIme (s : State) (v : Bool) : (s.writeIme v).mem = s.mem := rfl

@[simp] theorem mem_writeHalted (s : State) (v : Bool) : (s.writeHalted v).mem = s.mem := rfl

@[simp] theorem mem_putByte (s : State) (a : Word) (v : Byte) : (s.putByte a v).mem = Memory.set s.mem a.toNat v := rfl

@[simp] theorem byteAt_write8 (s : State) (r : Reg8) (v : Byte) (a : Word) : (s.write8 r v).byteAt a = s.byteAt a := by
  simp [State.byteAt]

@[simp] theorem byteAt_write16 (s : State) (r : Reg16) (v : Word) (a : Word) :
    (s.write16 r v).byteAt a = s.byteAt a := by
  simp [State.byteAt]

@[simp] theorem byteAt_writeFlag (s : State) (f : Flag) (v : Bool) (a : Word) :
    (s.writeFlag f v).byteAt a = s.byteAt a := rfl

@[simp] theorem byteAt_writeIme (s : State) (v : Bool) (a : Word) : (s.writeIme v).byteAt a = s.byteAt a := rfl

@[simp] theorem byteAt_writeHalted (s : State) (v : Bool) (a : Word) : (s.writeHalted v).byteAt a = s.byteAt a := rfl

/-! ## IME, halted, fault -/

@[simp] theorem ime_write8 (s : State) (r : Reg8) (v : Byte) : (s.write8 r v).ime = s.ime := by cases r <;> rfl

@[simp] theorem ime_write16 (s : State) (r : Reg16) (v : Word) : (s.write16 r v).ime = s.ime := by cases r <;> rfl

@[simp] theorem ime_writeFlag (s : State) (f : Flag) (v : Bool) : (s.writeFlag f v).ime = s.ime := rfl

@[simp] theorem ime_putByte (s : State) (a : Word) (v : Byte) : (s.putByte a v).ime = s.ime := rfl

@[simp] theorem ime_writeIme (s : State) (v : Bool) : (s.writeIme v).ime = v := rfl

@[simp] theorem ime_writeHalted (s : State) (v : Bool) : (s.writeHalted v).ime = s.ime := rfl

@[simp] theorem halted_write8 (s : State) (r : Reg8) (v : Byte) : (s.write8 r v).halted = s.halted := by
  cases r <;> rfl

@[simp] theorem halted_write16 (s : State) (r : Reg16) (v : Word) : (s.write16 r v).halted = s.halted := by
  cases r <;> rfl

@[simp] theorem halted_writeFlag (s : State) (f : Flag) (v : Bool) : (s.writeFlag f v).halted = s.halted := rfl

@[simp] theorem halted_putByte (s : State) (a : Word) (v : Byte) : (s.putByte a v).halted = s.halted := rfl

@[simp] theorem halted_writeIme (s : State) (v : Bool) : (s.writeIme v).halted = s.halted := rfl

@[simp] theorem halted_writeHalted (s : State) (v : Bool) : (s.writeHalted v).halted = v := rfl

@[simp] theorem fault_write8 (s : State) (r : Reg8) (v : Byte) : (s.write8 r v).fault = s.fault := by
  cases r <;> rfl

@[simp] theorem fault_write16 (s : State) (r : Reg16) (v : Word) : (s.write16 r v).fault = s.fault := by
  cases r <;> rfl

@[simp] theorem fault_writeFlag (s : State) (f : Flag) (v : Bool) : (s.writeFlag f v).fault = s.fault := rfl

@[simp] theorem fault_putByte (s : State) (a : Word) (v : Byte) : (s.putByte a v).fault = s.fault := rfl

@[simp] theorem fault_writeIme (s : State) (v : Bool) : (s.writeIme v).fault = s.fault := rfl

@[simp] theorem fault_writeHalted (s : State) (v : Bool) : (s.writeHalted v).fault = s.fault := rfl

/-! ## The faulted condition -/

@[simp] theorem fault_faulted (s : State) (faultState : FaultState) (f : Fault) :
    (s.faulted faultState f).fault = some (s.fault.getD f.record) := rfl

end Sys2Proof.Machine
end

