-- ==== Sys2Proof/Laws/Ops.lean ====
section
/-! SUPPORT. What each shared operation can do, once: the flag writes, going on after an operation, the bus, the stack and
the R8 operands. -/

namespace Sys2Proof.Machine

/-! ## Four flags at once -/

@[simp] theorem readFlag_writeFlags (s : State) (z n h c : Bool) (f : Flag) :
    (s.writeFlags z n h c).readFlag f = match f with | .z => z | .n => n | .h => h | .c => c := by
  cases f <;> simp [State.writeFlags]

@[simp] theorem read8_writeFlags (s : State) (z n h c : Bool) (r : Reg8) (ne : r ≠ .f) :
    (s.writeFlags z n h c).read8 r = s.read8 r := by
  simp [State.writeFlags, ne]

@[simp] theorem read16_writeFlags (s : State) (z n h c : Bool) (r : Reg16) (ne : r ≠ .af) :
    (s.writeFlags z n h c).read16 r = s.read16 r := by
  simp [State.writeFlags, ne]

@[simp] theorem byteAt_writeFlags (s : State) (z n h c : Bool) (a : Word) :
    (s.writeFlags z n h c).byteAt a = s.byteAt a := rfl

@[simp] theorem mem_writeFlags (s : State) (z n h c : Bool) : (s.writeFlags z n h c).mem = s.mem := rfl

@[simp] theorem ime_writeFlags (s : State) (z n h c : Bool) : (s.writeFlags z n h c).ime = s.ime := rfl

@[simp] theorem halted_writeFlags (s : State) (z n h c : Bool) : (s.writeFlags z n h c).halted = s.halted := rfl

@[simp] theorem fault_writeFlags (s : State) (z n h c : Bool) : (s.writeFlags z n h c).fault = s.fault := rfl

@[simp] theorem lowBit_writeFlags (s : State) (z n h c : Bool) (i : Nat) (low : i < 4) :
    (s.writeFlags z n h c).af.getLsbD i = s.af.getLsbD i := by
  simp only [State.writeFlags, lowBit_writeFlag _ _ _ i low]

/-! ## Going on after an operation -/

@[simp] theorem andThen_ok {α : Type} (a : α) (k : α → Result) : andThen (.ok a) k = k a := rfl

@[simp] theorem andThen_error {α : Type} (f : Fault) (k : α → Result) : andThen (.error f) k = .fault f := rfl

@[simp] theorem done_ok (s : State) : done (.ok s) = .next s := rfl

@[simp] theorem done_error (f : Fault) : done (.error f) = .fault f := rfl

/-- A meaning that goes on after an operation completes only if the operation did. -/
theorem andThen_next {α : Type} {x : Except Fault α} {k : α → Result} {t : State} (h : andThen x k = .next t) :
    ∃ a, x = .ok a ∧ k a = .next t := by
  cases x with
  | ok a => exact ⟨a, rfl, h⟩
  | error f => simp at h

theorem done_next {x : Except Fault State} {t : State} (h : done x = .next t) : x = .ok t := by
  obtain ⟨a, rfl, h⟩ := andThen_next h
  exact congrArg _ (Host.Outcome.next.inj h)

/-! ## Storage -/

/-- The two ranges without storage, as numbers (20_memory.md R61). -/
theorem isStorage_eq_false {a : Word} :
    isStorage a = false ↔ (0xE000 ≤ a.toNat ∧ a.toNat ≤ 0xFDFF) ∨ (0xFEA0 ≤ a.toNat ∧ a.toNat ≤ 0xFEFF) := by
  unfold isStorage segmentOf
  repeat' split
  all_goals simp only [Segment.hasStorage, true_iff, false_iff, Bool.true_eq_false]; omega

theorem isStorage_eq_true {a : Word} :
    isStorage a = true ↔ ¬ ((0xE000 ≤ a.toNat ∧ a.toNat ≤ 0xFDFF) ∨ (0xFEA0 ≤ a.toNat ∧ a.toNat ≤ 0xFEFF)) := by
  rw [← isStorage_eq_false, Bool.not_eq_false]

/-- Every address of the high-memory forms is storage (40_data_movement.md R148). -/
@[simp] theorem isStorage_highAddr (v : Byte) : isStorage (highAddr v) = true := by
  have := v.isLt
  have n : (highAddr v).toNat = 0xFF * 256 + v.toNat := toNat_combine 0xFF v
  rw [isStorage_eq_true]; omega

/-! ## The bus -/

theorem readByte_ok {a : Word} (h : isStorage a = true) (kind : AccessKind) (s : State) :
    readByte kind a s = .ok (s.byteAt a) := if_pos h

theorem readByte_error {a : Word} (h : isStorage a = false) (kind : AccessKind) (s : State) :
    readByte kind a s = .error (.busFault a kind s) := by simp [readByte, h, raiseBus]

/-- A byte read gives the byte held at a storage address, and nothing else. -/
theorem readByte_eq_ok {kind : AccessKind} {a : Word} {s : State} {v : Byte} :
    readByte kind a s = .ok v ↔ isStorage a = true ∧ s.byteAt a = v := by
  cases h : isStorage a
  · simp [readByte_error h]
  · simp [readByte_ok h]

theorem writeByte_ok {a : Word} (h : isStorage a = true) (v : Byte) (s : State) :
    writeByte a v s = .ok (s.putByte a v) := if_pos h

theorem writeByte_error {a : Word} (h : isStorage a = false) (v : Byte) (s : State) :
    writeByte a v s = .error (.busFault a .write s) := by simp [writeByte, h, raiseBus]

/-- A byte write stores at a storage address, and nothing else. -/
theorem writeByte_eq_ok {a : Word} {v : Byte} {s t : State} :
    writeByte a v s = .ok t ↔ isStorage a = true ∧ s.putByte a v = t := by
  cases h : isStorage a
  · simp [writeByte_error h]
  · simp [writeByte_ok h]

theorem readWord_ok {a : Word} (low : isStorage a = true) (high : isStorage (a + 1) = true) (s : State) :
    readWord a s = .ok (combine (s.byteAt (a + 1)) (s.byteAt a)) := by
  simp only [readWord, readByte_ok low, readByte_ok high]

theorem readWord_error_low {a : Word} (low : isStorage a = false) (s : State) :
    readWord a s = .error (.busFault a .read s) := by
  simp only [readWord, readByte_error low]

theorem readWord_error_high {a : Word} (low : isStorage a = true) (high : isStorage (a + 1) = false) (s : State) :
    readWord a s = .error (.busFault (a + 1) .read s) := by
  simp only [readWord, readByte_ok low, readByte_error high]

theorem readWord_eq_ok {a : Word} {s : State} {w : Word} :
    readWord a s = .ok w ↔
      isStorage a = true ∧ isStorage (a + 1) = true ∧ combine (s.byteAt (a + 1)) (s.byteAt a) = w := by
  cases low : isStorage a
  · simp [readWord_error_low low]
  · cases high : isStorage (a + 1)
    · simp [readWord_error_high low high]
    · simp [readWord_ok low high]

theorem writeWord_ok {a : Word} (low : isStorage a = true) (high : isStorage (a + 1) = true) (w : Word) (s : State) :
    writeWord a w s = .ok ((s.putByte a (lo w)).putByte (a + 1) (hi w)) := by
  simp only [writeWord, writeByte_ok low, writeByte_ok high]

theorem writeWord_error_low {a : Word} (low : isStorage a = false) (w : Word) (s : State) :
    writeWord a w s = .error (.busFault a .write s) := by
  simp only [writeWord, writeByte_error low]

/-- The second byte of a word write faults after the first has been stored (20_memory.md R67). -/
theorem writeWord_error_high {a : Word} (low : isStorage a = true) (high : isStorage (a + 1) = false) (w : Word)
    (s : State) : writeWord a w s = .error (.busFault (a + 1) .write (s.putByte a (lo w))) := by
  simp only [writeWord, writeByte_ok low, writeByte_error high]

theorem writeWord_eq_ok {a w : Word} {s t : State} :
    writeWord a w s = .ok t ↔
      isStorage a = true ∧ isStorage (a + 1) = true ∧ (s.putByte a (lo w)).putByte (a + 1) (hi w) = t := by
  cases low : isStorage a
  · simp [writeWord_error_low low]
  · cases high : isStorage (a + 1)
    · simp [writeWord_error_high low high]
    · simp [writeWord_ok low high]

/-! ## The stack -/

theorem sub_two_add_one (w : Word) : w - 2 + 1 = w - 1 := by bv_omega

theorem push_ok {s : State} (low : isStorage (s.read16 .sp - 2) = true) (high : isStorage (s.read16 .sp - 1) = true)
    (w : Word) :
    push w s = .ok (((s.write16 .sp (s.read16 .sp - 2)).putByte (s.read16 .sp - 2) (lo w)).putByte (s.read16 .sp - 1)
      (hi w)) := by
  rw [push, writeWord_ok low (by rw [sub_two_add_one]; exact high), sub_two_add_one]

theorem push_error_low {s : State} (low : isStorage (s.read16 .sp - 2) = false) (w : Word) :
    push w s = .error (.busFault (s.read16 .sp - 2) .write (s.write16 .sp (s.read16 .sp - 2))) := by
  rw [push, writeWord_error_low low]

theorem push_error_high {s : State} (low : isStorage (s.read16 .sp - 2) = true)
    (high : isStorage (s.read16 .sp - 1) = false) (w : Word) :
    push w s = .error (.busFault (s.read16 .sp - 1) .write
      ((s.write16 .sp (s.read16 .sp - 2)).putByte (s.read16 .sp - 2) (lo w))) := by
  rw [push, writeWord_error_high low (by rw [sub_two_add_one]; exact high), sub_two_add_one]

theorem pop_ok {s : State} (low : isStorage (s.read16 .sp) = true) (high : isStorage (s.read16 .sp + 1) = true) :
    pop s = .ok (combine (s.byteAt (s.read16 .sp + 1)) (s.byteAt (s.read16 .sp)),
      s.write16 .sp (s.read16 .sp + 2)) := by
  simp only [pop, readWord_ok low high]

theorem pop_error_low {s : State} (low : isStorage (s.read16 .sp) = false) :
    pop s = .error (.busFault (s.read16 .sp) .read s) := by
  simp only [pop, readWord_error_low low]

theorem pop_error_high {s : State} (low : isStorage (s.read16 .sp) = true)
    (high : isStorage (s.read16 .sp + 1) = false) :
    pop s = .error (.busFault (s.read16 .sp + 1) .read s) := by
  simp only [pop, readWord_error_high low high]

/-! ## The R8 operands -/

/-- A register operand is never the byte at HL, and never F. -/
theorem regOfR8_some {i : R8} (h : i.isRegister = true) : ∃ r, regOfR8 i = some r ∧ r ≠ .f := by
  cases i <;> first | exact ⟨_, rfl, by decide⟩ | simp [R8.isRegister] at h

theorem readR8_register {i : R8} {r : Reg8} (h : regOfR8 i = some r) (s : State) : readR8 i s = .ok (s.read8 r) := by
  simp only [readR8, h]

theorem writeR8_register {i : R8} {r : Reg8} (h : regOfR8 i = some r) (v : Byte) (s : State) :
    writeR8 i v s = .ok (s.write8 r v) := by
  simp only [writeR8, h]

@[simp] theorem readR8_hlMem (s : State) : readR8 .hlMem s = readByte .read (s.read16 .hl) s := rfl

@[simp] theorem writeR8_hlMem (v : Byte) (s : State) : writeR8 .hlMem v s = writeByte (s.read16 .hl) v s := rfl

/-! ## The conditions and selectors -/

theorem highAddr_storage_write (v w : Byte) (s : State) : writeByte (highAddr v) w s = .ok (s.putByte (highAddr v) w) :=
  writeByte_ok (isStorage_highAddr v) w s

theorem highAddr_storage_read (kind : AccessKind) (v : Byte) (s : State) :
    readByte kind (highAddr v) s = .ok (s.byteAt (highAddr v)) :=
  readByte_ok (isStorage_highAddr v) kind s

/-- The RST target is eight times the literal (10_state.md R35). -/
theorem toNat_rstTarget (t : BitVec 3) : (rstTarget t).toNat = 8 * t.toNat := by revert t; decide

end Sys2Proof.Machine
end

