-- ==== Sys2Proof/Laws/Step.lean ====
section
/-! SUPPORT. What a fetch and a step can do, once, and that the operations keep the canonical form of memory. -/

namespace Sys2Proof.Machine

/-! ## Fetching -/

theorem fetch8_ok {s : State} (h : isStorage (s.read16 .pc) = true) :
    fetch8 s = .ok (s.byteAt (s.read16 .pc), s.write16 .pc (s.read16 .pc + 1)) := by
  simp only [fetch8, readByte_ok h]

theorem fetch8_error {s : State} (h : isStorage (s.read16 .pc) = false) :
    fetch8 s = .error (.busFault (s.read16 .pc) .fetch s) := by
  simp only [fetch8, readByte_error h]

/-- A fetched byte is the byte at PC, from a storage address, and PC moves past it. -/
theorem fetch8_eq_ok {s : State} {v : Byte} {t : State} :
    fetch8 s = .ok (v, t) ↔
      isStorage (s.read16 .pc) = true ∧ s.byteAt (s.read16 .pc) = v ∧ s.write16 .pc (s.read16 .pc + 1) = t := by
  cases h : isStorage (s.read16 .pc)
  · simp [fetch8_error h]
  · simp [fetch8_ok h]

/-- Fetching an instruction changes PC only. -/
theorem fetchInstr_changes_pc_only {s : State} {i : Instr} {t : State} (h : fetchInstr s = .ok (i, t)) :
    t = s.write16 .pc (t.read16 .pc) := by
  have one : ∀ {s t : State} {v : Byte}, fetch8 s = .ok (v, t) → t = s.write16 .pc (t.read16 .pc) := by
    intro s t v h
    obtain ⟨-, -, rfl⟩ := fetch8_eq_ok.1 h
    rfl
  have two : ∀ {s t u : State}, t = s.write16 .pc (t.read16 .pc) → u = t.write16 .pc (u.read16 .pc) →
      u = s.write16 .pc (u.read16 .pc) := by
    intro s t u h k
    rw [k, h]; rfl
  unfold fetchInstr fetch16 at h
  cases h1 : fetch8 s with
  | error f => simp [h1] at h
  | ok r1 =>
    obtain ⟨op, s1⟩ := r1
    have c1 := one h1
    cases hp : decodeFirst op with
    | none => simp [h1, hp] at h
    | some p =>
      cases p with
      | op k =>
        simp only [h1, hp, Except.ok.injEq, Prod.mk.injEq] at h
        exact h.2 ▸ c1
      | opImm8 k =>
        cases h2 : fetch8 s1 with
        | error f => simp [h1, hp, h2] at h
        | ok r2 =>
          simp only [h1, hp, h2, Except.ok.injEq, Prod.mk.injEq] at h
          exact h.2 ▸ two c1 (one h2)
      | opImm16 k =>
        cases h2 : fetch8 s1 with
        | error f => simp [h1, hp, h2] at h
        | ok r2 =>
          cases h3 : fetch8 r2.2 with
          | error f => simp [h1, hp, h2, h3] at h
          | ok r3 =>
            simp only [h1, hp, h2, h3, Except.ok.injEq, Prod.mk.injEq] at h
            exact h.2 ▸ two (two c1 (one h2)) (one h3)
      | cb =>
        cases h2 : fetch8 s1 with
        | error f => simp [h1, hp, h2] at h
        | ok r2 =>
          simp only [h1, hp, h2, Except.ok.injEq, Prod.mk.injEq] at h
          exact h.2 ▸ two c1 (one h2)

/-! ## Steps -/

/-- Everything a step that completes can be: the idle step of a halted machine, or the execution of the fetched
instruction with PC past it. -/
theorem step_cases {s t : State} (h : step s = .next t) :
    s.fault = none ∧
    ((s.halted = true ∧ t = s) ∨
     (s.halted = false ∧ ∃ i pc, fetchInstr s = .ok (i, s.write16 .pc pc) ∧ exec i (s.write16 .pc pc) = .next t)) := by
  unfold step at h
  cases hf : s.fault with
  | some r => simp [hf] at h
  | none =>
    refine ⟨rfl, ?_⟩
    simp only [hf] at h
    cases hh : s.halted with
    | true =>
      simp only [hh, if_true] at h
      exact .inl ⟨rfl, (Host.Outcome.next.inj h).symm⟩
    | false =>
      simp only [hh, Bool.false_eq_true, if_false] at h
      obtain ⟨⟨i, u⟩, hd, he⟩ := andThen_next h
      have only := fetchInstr_changes_pc_only hd
      exact .inr ⟨rfl, i, u.read16 .pc, only ▸ hd, only ▸ he⟩

/-- No tick is taken of a machine whose fault is recorded. -/
theorem tick_of_fault {s : State} {r : FaultRecord} (h : s.fault = some r) (p : TickParams) : tick p s = .noStep := by
  simp only [tick, h]

/-! ## What the host does -/

/-- An access of the host that is answered did not fault. -/
theorem hostAccess_answered {α : Type} {faultState : FaultState} {s t : State} {x : Except Fault α} {k : α → HostOutcome}
    {reply : HostReply} (h : hostAccess faultState s x k = .answered reply t) :
    ∃ a, x = .ok a ∧ k a = .answered reply t := by
  cases x with
  | ok a => exact ⟨a, rfl, h⟩
  | error f => cases h

/-- An access of the host faults by itself, recording what it raised, or in what follows it. -/
theorem hostAccess_faulted {α : Type} {faultState : FaultState} {s t : State} {x : Except Fault α} {k : α → HostOutcome}
    (h : hostAccess faultState s x k = .faulted t) :
    (∃ f, x = .error f ∧ t = s.faulted faultState f) ∨ ∃ a, x = .ok a ∧ k a = .faulted t := by
  cases x with
  | ok a => exact .inr ⟨a, rfl, h⟩
  | error f => exact .inl ⟨f, rfl, (HostOutcome.faulted.inj h).symm⟩

/-! ## The canonical form of memory -/

theorem putByte_wf {s : State} (h : Memory.wf s.mem) {a : Word} (stored : isStorage a = true) (v : Byte) :
    Memory.wf (s.putByte a v).mem := Memory.wf_set h a v stored

theorem writeByte_wf {s t : State} (h : Memory.wf s.mem) {a : Word} {v : Byte} (e : writeByte a v s = .ok t) :
    Memory.wf t.mem := by
  obtain ⟨stored, rfl⟩ := writeByte_eq_ok.1 e
  exact putByte_wf h stored v

theorem writeWord_wf {s t : State} (h : Memory.wf s.mem) {a w : Word} (e : writeWord a w s = .ok t) :
    Memory.wf t.mem := by
  obtain ⟨low, high, rfl⟩ := writeWord_eq_ok.1 e
  exact putByte_wf (putByte_wf h low _) high _

theorem writeR8_wf {s t : State} (h : Memory.wf s.mem) {i : R8} {v : Byte} (e : writeR8 i v s = .ok t) :
    Memory.wf t.mem := by
  revert e
  unfold writeR8
  split
  · rintro ⟨⟩; simpa using h
  · exact writeByte_wf h

theorem push_wf {s t : State} (h : Memory.wf s.mem) {w : Word} (e : push w s = .ok t) : Memory.wf t.mem :=
  writeWord_wf (s := s.write16 .sp (s.read16 .sp - 2)) (by simpa using h) e

/-- A pop changes SP only. -/
theorem pop_eq_ok {s t : State} {w : Word} (e : pop s = .ok (w, t)) :
    readWord (s.read16 .sp) s = .ok w ∧ t = s.write16 .sp (s.read16 .sp + 2) := by
  unfold pop at e
  cases r : readWord (s.read16 .sp) s with
  | error f => simp [r] at e
  | ok v => simp only [r, Except.ok.injEq, Prod.mk.injEq] at e; obtain ⟨rfl, rfl⟩ := e; exact ⟨rfl, rfl⟩

theorem placeBytes_wf {s : State} (h : Memory.wf s.mem) (bytes : List Byte) (a : Word) :
    Memory.wf (placeBytes a bytes s).mem := by
  induction bytes generalizing a s with
  | nil => exact h
  | cons v rest ih =>
    unfold placeBytes
    apply ih
    split
    · rename_i stored; exact putByte_wf h stored v
    · exact h

theorem withFetchWord_wf {s : State} (h : Memory.wf s.mem) (nbits w : Nat) :
    Memory.wf (s.withFetchWord nbits w).mem := placeBytes_wf h _ _

theorem loadImage_wf {faultState : FaultState} {s t : State} {reply : HostReply} (h : Memory.wf s.mem)
    (image : List (Word × Byte)) (e : loadImage faultState image s = .answered reply t) : Memory.wf t.mem := by
  induction image generalizing s with
  | nil => cases e; exact h
  | cons c rest ih =>
    obtain ⟨u, w, e⟩ := hostAccess_answered e
    exact ih (writeByte_wf h w) e

end Sys2Proof.Machine
end

