-- ==== Sys2Proof/Laws/Exec.lean ====
section
/-! SUPPORT. Everything `exec` can do, once: a state property that the named updates keep is kept by every instruction
that completes, where PC, IME and halted are updated only by the instructions said here. -/

namespace Sys2Proof.Machine

/-- The control transfers of 44_control_flow.md: the instructions whose meaning writes PC (10_state.md R38). -/
def isTransfer : Instr → Bool
  | .nop => false
  | .ldA16Sp _ => false
  | .stop => false
  | .jrE8 _ => true
  | .rlca => false
  | .rrca => false
  | .rla => false
  | .rra => false
  | .daa => false
  | .cpl => false
  | .scf => false
  | .ccf => false
  | .halt => false
  | .ldHlImm8 _ => false
  | .incHl => false
  | .decHl => false
  | .jrCcE8 _ _ => true
  | .ldR16Imm16 _ _ => false
  | .ldR16MemA _ => false
  | .ldAR16Mem _ => false
  | .incR16 _ => false
  | .decR16 _ => false
  | .addHlR16 _ => false
  | .incR8 _ => false
  | .decR8 _ => false
  | .ldR8Imm8 _ _ => false
  | .ldR8Hl _ => false
  | .ldHlR8 _ => false
  | .ldR8R8 _ _ => false
  | .addAR8 _ => false
  | .adcAR8 _ => false
  | .subAR8 _ => false
  | .sbcAR8 _ => false
  | .andAR8 _ => false
  | .xorAR8 _ => false
  | .orAR8 _ => false
  | .cpAR8 _ => false
  | .addAImm8 _ => false
  | .adcAImm8 _ => false
  | .subAImm8 _ => false
  | .sbcAImm8 _ => false
  | .andAImm8 _ => false
  | .xorAImm8 _ => false
  | .orAImm8 _ => false
  | .cpAImm8 _ => false
  | .retCc _ => true
  | .jpCcA16 _ _ => true
  | .callCcA16 _ _ => true
  | .jpA16 _ => true
  | .ret => true
  | .reti => true
  | .callA16 _ => true
  | .prefixCb _ => false
  | .jpHl => true
  | .rstVec _ => true
  | .popR16stk _ => false
  | .pushR16stk _ => false
  | .ldhA8A _ => false
  | .ldhCA => false
  | .ldA16A _ => false
  | .ldhAA8 _ => false
  | .ldhAC => false
  | .ldAA16 _ => false
  | .addSpE8 _ => false
  | .ldHlSpE8 _ => false
  | .ldSpHl => false
  | .di => false
  | .ei => false
  | .illegalD3 => false
  | .illegalDB => false
  | .illegalDD => false
  | .illegalE3 => false
  | .illegalE4 => false
  | .illegalEB => false
  | .illegalEC => false
  | .illegalED => false
  | .illegalF4 => false
  | .illegalFC => false
  | .illegalFD => false
  | .rlcR8 _ => false
  | .rrcR8 _ => false
  | .rlR8 _ => false
  | .rrR8 _ => false
  | .slaR8 _ => false
  | .sraR8 _ => false
  | .swapR8 _ => false
  | .srlR8 _ => false
  | .bitNR8 _ _ => false
  | .resNR8 _ _ => false
  | .setNR8 _ _ => false

/-- A property that the updates an instruction may use keep. -/
structure KeptByUpdates (i : Instr) (P : State → Prop) : Prop where
  write8 : ∀ s r v, r ≠ .f → P s → P (s.write8 r v)
  write16 : ∀ s r v, r ≠ .pc → P s → P (s.write16 r v)
  writeFlag : ∀ s f v, P s → P (s.writeFlag f v)
  putByte : ∀ s a v, isStorage a = true → P s → P (s.putByte a v)
  writePc : isTransfer i = true → ∀ s v, P s → P (s.write16 .pc v)
  writeIme : i = .di ∨ i = .ei ∨ i = .reti → ∀ s v, P s → P (s.writeIme v)
  writeHalted : i = .halt → ∀ s v, P s → P (s.writeHalted v)

variable {i : Instr} {P : State → Prop} {s t : State}

theorem KeptByUpdates.writeFlags (k : KeptByUpdates i P) (z n h c : Bool) (p : P s) : P (s.writeFlags z n h c) :=
  k.writeFlag _ _ _ (k.writeFlag _ _ _ (k.writeFlag _ _ _ (k.writeFlag _ _ _ p)))

theorem KeptByUpdates.writeByte (k : KeptByUpdates i P) {a : Word} {v : Byte} (p : P s)
    (e : Machine.writeByte a v s = .ok t) : P t := by
  obtain ⟨stored, rfl⟩ := writeByte_eq_ok.1 e
  exact k.putByte _ _ _ stored p

theorem KeptByUpdates.writeWord (k : KeptByUpdates i P) {a w : Word} (p : P s)
    (e : Machine.writeWord a w s = .ok t) : P t := by
  obtain ⟨low, high, rfl⟩ := writeWord_eq_ok.1 e
  exact k.putByte _ _ _ high (k.putByte _ _ _ low p)

theorem KeptByUpdates.writeR8 (k : KeptByUpdates i P) {r : R8} {v : Byte} (p : P s)
    (e : Machine.writeR8 r v s = .ok t) : P t := by
  by_cases reg : r.isRegister = true
  · obtain ⟨q, hq, ne⟩ := regOfR8_some reg
    rw [writeR8_register hq] at e
    exact Except.ok.inj e ▸ k.write8 _ _ _ ne p
  · have mem : r = .hlMem := by cases r <;> first | rfl | exact absurd rfl reg
    subst mem
    exact k.writeByte p e

theorem KeptByUpdates.push (k : KeptByUpdates i P) {w : Word} (p : P s) (e : Machine.push w s = .ok t) : P t :=
  k.writeWord (k.write16 _ _ _ (by decide) p) e

theorem KeptByUpdates.pop (k : KeptByUpdates i P) {w : Word} (p : P s) (e : Machine.pop s = .ok (w, t)) : P t := by
  obtain ⟨-, rfl⟩ := pop_eq_ok e
  exact k.write16 _ _ _ (by decide) p

theorem KeptByUpdates.stepR16Mem (k : KeptByUpdates i P) (q : R16Mem) (p : P s) : P (Machine.stepR16Mem q s) := by
  cases q with
  | bc => exact p
  | de => exact p
  | hlInc => exact k.write16 _ .hl _ (by decide) p
  | hlDec => exact k.write16 _ .hl _ (by decide) p

theorem KeptByUpdates.rotOperand (k : KeptByUpdates i P) {r : R8} {f : Byte → Shifted} (p : P s)
    (e : Machine.rotOperand r f s = .next t) : P t := by
  obtain ⟨v, -, e⟩ := andThen_next e
  obtain ⟨u, w, e⟩ := andThen_next e
  exact Host.Outcome.next.inj e ▸ k.writeFlags _ _ _ _ (k.writeR8 p w)

theorem KeptByUpdates.callTo (k : KeptByUpdates i P) (transfer : isTransfer i = true) {w : Word} (p : P s)
    (e : Machine.callTo w s = .next t) : P t := by
  obtain ⟨u, pushed, e⟩ := andThen_next e
  exact Host.Outcome.next.inj e ▸ k.writePc transfer _ _ (k.push p pushed)

theorem KeptByUpdates.returnThen (k : KeptByUpdates i P) (transfer : isTransfer i = true) {f : State → State}
    (hf : ∀ s, P s → P (f s)) (p : P s) (e : Machine.returnThen f s = .next t) : P t := by
  obtain ⟨⟨w, u⟩, popped, e⟩ := andThen_next e
  exact Host.Outcome.next.inj e ▸ hf _ (k.writePc transfer _ _ (k.pop p popped))

/-- An operand read, then a pure change of state. -/
theorem kept_after_read {α : Type} {x : Except Fault α} {f : α → State} (hf : ∀ a, P (f a))
    (e : andThen x (fun a => .next (f a)) = .next t) : P t := by
  obtain ⟨a, -, e⟩ := andThen_next e
  exact Host.Outcome.next.inj e ▸ hf a

/-- Every instruction that completes keeps what its updates keep. -/
theorem exec_keeps (k : KeptByUpdates i P) (p : P s) (e : exec i s = .next t) : P t := by
  have pure : ∀ {u : State}, P u → (.next u : Result) = .next t → P t := fun hu e => Host.Outcome.next.inj e ▸ hu
  have sp : ∀ {r : R16}, slotOfR16 r ≠ .pc := fun {r} => by cases r <;> decide
  cases i with
  | nop => exact pure p e
  | ldA16Sp a16 => exact k.writeWord p (done_next e)
  | stop => cases e
  | jrE8 e8 => exact pure (k.writePc rfl _ _ p) e
  | rlca => exact pure (k.writeFlags _ _ _ _ (k.write8 _ _ _ (by decide) p)) e
  | rrca => exact pure (k.writeFlags _ _ _ _ (k.write8 _ _ _ (by decide) p)) e
  | rla => exact pure (k.writeFlags _ _ _ _ (k.write8 _ _ _ (by decide) p)) e
  | rra => exact pure (k.writeFlags _ _ _ _ (k.write8 _ _ _ (by decide) p)) e
  | daa =>
    exact pure (k.writeFlag _ _ _ (k.writeFlag _ _ _ (k.writeFlag _ _ _ (k.write8 _ _ _ (by decide) p)))) e
  | cpl => exact pure (k.writeFlag _ _ _ (k.writeFlag _ _ _ (k.write8 _ _ _ (by decide) p))) e
  | scf => exact pure (k.writeFlag _ _ _ (k.writeFlag _ _ _ (k.writeFlag _ _ _ p))) e
  | ccf => exact pure (k.writeFlag _ _ _ (k.writeFlag _ _ _ (k.writeFlag _ _ _ p))) e
  | halt => exact pure (k.writeHalted rfl _ _ p) e
  | ldHlImm8 imm8 => exact k.writeByte p (done_next e)
  | incHl =>
    obtain ⟨v, -, e⟩ := andThen_next e
    obtain ⟨u, w, e⟩ := andThen_next e
    exact pure (k.writeFlag _ _ _ (k.writeFlag _ _ _ (k.writeFlag _ _ _ (k.writeByte p w)))) e
  | decHl =>
    obtain ⟨v, -, e⟩ := andThen_next e
    obtain ⟨u, w, e⟩ := andThen_next e
    exact pure (k.writeFlag _ _ _ (k.writeFlag _ _ _ (k.writeFlag _ _ _ (k.writeByte p w)))) e
  | jrCcE8 cc e8 =>
    simp only [exec, execJrCcE8] at e
    split at e
    · exact pure (k.writePc rfl _ _ p) e
    · exact pure p e
  | ldR16Imm16 q imm16 => exact pure (k.write16 _ _ _ sp p) e
  | ldR16MemA q =>
    obtain ⟨u, w, e⟩ := andThen_next e
    exact pure (k.stepR16Mem q (k.writeByte p w)) e
  | ldAR16Mem q => exact kept_after_read (fun v => k.stepR16Mem q (k.write8 _ _ _ (by decide) p)) e
  | incR16 q => exact pure (k.write16 _ _ _ sp p) e
  | decR16 q => exact pure (k.write16 _ _ _ sp p) e
  | addHlR16 q =>
    exact pure (k.writeFlag _ _ _ (k.writeFlag _ _ _ (k.writeFlag _ _ _ (k.write16 _ _ _ (by decide) p)))) e
  | incR8 dst =>
    obtain ⟨v, -, e⟩ := andThen_next e
    obtain ⟨u, w, e⟩ := andThen_next e
    exact pure (k.writeFlag _ _ _ (k.writeFlag _ _ _ (k.writeFlag _ _ _ (k.writeR8 p w)))) e
  | decR8 dst =>
    obtain ⟨v, -, e⟩ := andThen_next e
    obtain ⟨u, w, e⟩ := andThen_next e
    exact pure (k.writeFlag _ _ _ (k.writeFlag _ _ _ (k.writeFlag _ _ _ (k.writeR8 p w)))) e
  | ldR8Imm8 dst imm8 => exact k.writeR8 p (done_next e)
  | ldR8Hl dst => obtain ⟨v, -, e⟩ := andThen_next e; exact k.writeR8 p (done_next e)
  | ldHlR8 r => obtain ⟨v, -, e⟩ := andThen_next e; exact k.writeByte p (done_next e)
  | ldR8R8 dst r => obtain ⟨v, -, e⟩ := andThen_next e; exact k.writeR8 p (done_next e)
  | addAR8 r => exact kept_after_read (fun v => k.writeFlags _ _ _ _ (k.write8 _ _ _ (by decide) p)) e
  | adcAR8 r => exact kept_after_read (fun v => k.writeFlags _ _ _ _ (k.write8 _ _ _ (by decide) p)) e
  | subAR8 r => exact kept_after_read (fun v => k.write8 _ _ _ (by decide) (k.writeFlags _ _ _ _ p)) e
  | sbcAR8 r => exact kept_after_read (fun v => k.write8 _ _ _ (by decide) (k.writeFlags _ _ _ _ p)) e
  | andAR8 r => exact kept_after_read (fun v => k.writeFlags _ _ _ _ (k.write8 _ _ _ (by decide) p)) e
  | xorAR8 r => exact kept_after_read (fun v => k.writeFlags _ _ _ _ (k.write8 _ _ _ (by decide) p)) e
  | orAR8 r => exact kept_after_read (fun v => k.writeFlags _ _ _ _ (k.write8 _ _ _ (by decide) p)) e
  | cpAR8 r => exact kept_after_read (fun v => k.writeFlags _ _ _ _ p) e
  | addAImm8 imm8 => exact pure (k.writeFlags _ _ _ _ (k.write8 _ _ _ (by decide) p)) e
  | adcAImm8 imm8 => exact pure (k.writeFlags _ _ _ _ (k.write8 _ _ _ (by decide) p)) e
  | subAImm8 imm8 => exact pure (k.write8 _ _ _ (by decide) (k.writeFlags _ _ _ _ p)) e
  | sbcAImm8 imm8 => exact pure (k.write8 _ _ _ (by decide) (k.writeFlags _ _ _ _ p)) e
  | andAImm8 imm8 => exact pure (k.writeFlags _ _ _ _ (k.write8 _ _ _ (by decide) p)) e
  | xorAImm8 imm8 => exact pure (k.writeFlags _ _ _ _ (k.write8 _ _ _ (by decide) p)) e
  | orAImm8 imm8 => exact pure (k.writeFlags _ _ _ _ (k.write8 _ _ _ (by decide) p)) e
  | cpAImm8 imm8 => exact pure (k.writeFlags _ _ _ _ p) e
  | retCc cc =>
    simp only [exec, execRetCc] at e
    split at e
    · exact k.returnThen rfl (fun _ h => h) p e
    · exact pure p e
  | jpCcA16 cc a16 =>
    simp only [exec, execJpCcA16] at e
    split at e
    · exact pure (k.writePc rfl _ _ p) e
    · exact pure p e
  | callCcA16 cc a16 =>
    simp only [exec, execCallCcA16] at e
    split at e
    · exact k.callTo rfl p e
    · exact pure p e
  | jpA16 a16 => exact pure (k.writePc rfl _ _ p) e
  | ret => exact k.returnThen rfl (fun _ h => h) p e
  | reti => exact k.returnThen rfl (fun s h => k.writeIme (by simp) s _ h) p e
  | callA16 a16 => exact k.callTo rfl p e
  | prefixCb cb =>
    simp only [exec, execPrefixCb] at e
    split at e
    · split at e <;> exact k.rotOperand p e
    · exact kept_after_read (fun v => k.writeFlag _ _ _ (k.writeFlag _ _ _ (k.writeFlag _ _ _ p))) e
    · obtain ⟨v, -, e⟩ := andThen_next e; exact k.writeR8 p (done_next e)
    · obtain ⟨v, -, e⟩ := andThen_next e; exact k.writeR8 p (done_next e)
  | jpHl => exact pure (k.writePc rfl _ _ p) e
  | rstVec n => exact k.callTo rfl p e
  | popR16stk q =>
    obtain ⟨⟨w, u⟩, popped, e⟩ := andThen_next e
    exact pure (k.write16 _ _ _ (by cases q <;> decide) (k.pop p popped)) e
  | pushR16stk q => exact k.push p (done_next e)
  | ldhA8A a8 => exact k.writeByte p (done_next e)
  | ldhCA => exact k.writeByte p (done_next e)
  | ldA16A a16 => exact k.writeByte p (done_next e)
  | ldhAA8 a8 => exact kept_after_read (fun v => k.write8 _ _ _ (by decide) p) e
  | ldhAC => exact kept_after_read (fun v => k.write8 _ _ _ (by decide) p) e
  | ldAA16 a16 => exact kept_after_read (fun v => k.write8 _ _ _ (by decide) p) e
  | addSpE8 e8 => exact pure (k.writeFlags _ _ _ _ (k.write16 _ _ _ (by decide) p)) e
  | ldHlSpE8 e8 => exact pure (k.writeFlags _ _ _ _ (k.write16 _ _ _ (by decide) p)) e
  | ldSpHl => exact pure (k.write16 _ _ _ (by decide) p) e
  | di => exact pure (k.writeIme (by simp) _ _ p) e
  | ei => exact pure (k.writeIme (by simp) _ _ p) e
  | illegalD3 => cases e
  | illegalDB => cases e
  | illegalDD => cases e
  | illegalE3 => cases e
  | illegalE4 => cases e
  | illegalEB => cases e
  | illegalEC => cases e
  | illegalED => cases e
  | illegalF4 => cases e
  | illegalFC => cases e
  | illegalFD => cases e
  | rlcR8 r => exact k.rotOperand p e
  | rrcR8 r => exact k.rotOperand p e
  | rlR8 r => exact k.rotOperand p e
  | rrR8 r => exact k.rotOperand p e
  | slaR8 r => exact k.rotOperand p e
  | sraR8 r => exact k.rotOperand p e
  | swapR8 r => exact k.rotOperand p e
  | srlR8 r => exact k.rotOperand p e
  | bitNR8 n r => exact kept_after_read (fun v => k.writeFlag _ _ _ (k.writeFlag _ _ _ (k.writeFlag _ _ _ p))) e
  | resNR8 n r => obtain ⟨v, -, e⟩ := andThen_next e; exact k.writeR8 p (done_next e)
  | setNR8 n r => obtain ⟨v, -, e⟩ := andThen_next e; exact k.writeR8 p (done_next e)

end Sys2Proof.Machine
end

