-- ==== Sys2Proof/Laws/Frame.lean ====
section
/-! SUPPORT. How `frame` is built up update by update, what `operandByte`, `condMeans` and `readR8` have to do with each
other, and that the updates keep the invariant. -/

namespace Sys2Proof.Machine

/-! ## Building a frame -/

variable {regs : List Reg8} {slots : List Reg16} {cells : List Word} {s t u : State}

theorem frame_refl (s : State) : frame regs slots cells s s :=
  ⟨⟨fun _ _ => rfl, fun _ => rfl, fun _ => rfl, fun _ _ => rfl, rfl⟩, ⟨rfl, rfl⟩, fun _ _ => rfl⟩

theorem frame_trans (h : frame regs slots cells s t) (k : frame regs slots cells t u) : frame regs slots cells s u :=
  ⟨⟨fun r hr => (k.1.reg8 r hr).trans (h.1.reg8 r hr), fun hs => (k.1.sp hs).trans (h.1.sp hs),
    fun hs => (k.1.pc hs).trans (h.1.pc hs), fun a ha => (k.1.byte a ha).trans (h.1.byte a ha),
    k.1.fault.trans h.1.fault⟩,
   ⟨k.2.1.1.trans h.2.1.1, k.2.1.2.trans h.2.1.2⟩, fun i hi => (k.2.2 i hi).trans (h.2.2 i hi)⟩

theorem frame_mono {regs' : List Reg8} {slots' : List Reg16} {cells' : List Word} (h : frame regs slots cells s t)
    (hr : ∀ r ∈ regs, r ∈ regs') (hs : ∀ r ∈ slots, r ∈ slots') (hc : ∀ a ∈ cells, a ∈ cells') :
    frame regs' slots' cells' s t :=
  ⟨⟨fun r out => h.1.reg8 r fun k => out (hr _ k), fun out => h.1.sp fun k => out (hs _ k),
    fun out => h.1.pc fun k => out (hs _ k), fun a out => h.1.byte a fun k => out (hc _ k), h.1.fault⟩, h.2⟩

/-- A write of a named register other than F stays in the frame. -/
theorem frame_write8 (h : frame regs slots cells s t) {r : Reg8} (hr : r ∈ regs) (ne : r ≠ .f) (v : Byte) :
    frame regs slots cells s (t.write8 r v) :=
  frame_trans h ⟨⟨fun _ hr' => read8_write8_ne _ _ _ _ fun e => hr' (e ▸ hr), fun _ => read16_sp_write8 _ _ _,
    fun _ => read16_pc_write8 _ _ _, fun _ _ => byteAt_write8 _ _ _ _, fault_write8 _ _ _⟩,
    ⟨ime_write8 _ _ _, halted_write8 _ _ _⟩, fun i hi => lowBit_write8 _ _ _ i ne hi⟩

/-- A flag write stays in a frame that names F. -/
theorem frame_writeFlag (h : frame regs slots cells s t) (hf : .f ∈ regs) (f : Flag) (v : Bool) :
    frame regs slots cells s (t.writeFlag f v) :=
  frame_trans h ⟨⟨fun _ hr => read8_writeFlag _ _ _ _ fun e => hr (e ▸ hf), fun _ => rfl, fun _ => rfl,
    fun _ _ => rfl, rfl⟩, ⟨rfl, rfl⟩, fun i hi => lowBit_writeFlag _ _ _ i hi⟩

theorem frame_writeFlags (h : frame regs slots cells s t) (hf : .f ∈ regs) (z n hc c : Bool) :
    frame regs slots cells s (t.writeFlags z n hc c) :=
  frame_writeFlag (frame_writeFlag (frame_writeFlag (frame_writeFlag h hf _ _) hf _ _) hf _ _) hf _ _

theorem frame_write_sp (h : frame regs slots cells s t) (hs : .sp ∈ slots) (v : Word) :
    frame regs slots cells s (t.write16 .sp v) :=
  frame_trans h ⟨⟨fun r _ => read8_write16_sp _ _ r, fun ns => absurd hs ns, fun _ => rfl, fun _ _ => rfl, rfl⟩,
    ⟨rfl, rfl⟩, fun _ _ => rfl⟩

theorem frame_write_pc (h : frame regs slots cells s t) (hs : .pc ∈ slots) (v : Word) :
    frame regs slots cells s (t.write16 .pc v) :=
  frame_trans h ⟨⟨fun r _ => read8_write16_pc _ _ r, fun _ => rfl, fun ns => absurd hs ns, fun _ _ => rfl, rfl⟩,
    ⟨rfl, rfl⟩, fun _ _ => rfl⟩

theorem frame_write_bc (h : frame regs slots cells s t) (hb : .b ∈ regs) (hc : .c ∈ regs) (v : Word) :
    frame regs slots cells s (t.write16 .bc v) :=
  frame_trans h ⟨⟨fun r hr => by
      have n1 : r ≠ .b := fun e => hr (e ▸ hb)
      have n2 : r ≠ .c := fun e => hr (e ▸ hc)
      rw [read8_write16_bc, if_neg n1, if_neg n2],
    fun _ => rfl, fun _ => rfl, fun _ _ => rfl, rfl⟩, ⟨rfl, rfl⟩, fun _ _ => rfl⟩

theorem frame_write_de (h : frame regs slots cells s t) (hd : .d ∈ regs) (he : .e ∈ regs) (v : Word) :
    frame regs slots cells s (t.write16 .de v) :=
  frame_trans h ⟨⟨fun r hr => by
      have n1 : r ≠ .d := fun e => hr (e ▸ hd)
      have n2 : r ≠ .e := fun e => hr (e ▸ he)
      rw [read8_write16_de, if_neg n1, if_neg n2],
    fun _ => rfl, fun _ => rfl, fun _ _ => rfl, rfl⟩, ⟨rfl, rfl⟩, fun _ _ => rfl⟩

theorem frame_write_hl (h : frame regs slots cells s t) (hh : .h ∈ regs) (hl : .l ∈ regs) (v : Word) :
    frame regs slots cells s (t.write16 .hl v) :=
  frame_trans h ⟨⟨fun r hr => by
      have n1 : r ≠ .h := fun e => hr (e ▸ hh)
      have n2 : r ≠ .l := fun e => hr (e ▸ hl)
      rw [read8_write16_hl, if_neg n1, if_neg n2],
    fun _ => rfl, fun _ => rfl, fun _ _ => rfl, rfl⟩, ⟨rfl, rfl⟩, fun _ _ => rfl⟩

/-- A write of the slot an R16 selector names stays in a frame that names the slot and its halves. -/
theorem frame_writeR16 (p : R16) (v : Word) (s : State) :
    frame (halvesOf (slotOfR16 p)) [slotOfR16 p] [] s (s.write16 (slotOfR16 p) v) := by
  cases p with
  | bc => exact frame_write_bc (frame_refl s) (by simp [slotOfR16, halvesOf]) (by simp [slotOfR16, halvesOf]) v
  | de => exact frame_write_de (frame_refl s) (by simp [slotOfR16, halvesOf]) (by simp [slotOfR16, halvesOf]) v
  | hl => exact frame_write_hl (frame_refl s) (by simp [slotOfR16, halvesOf]) (by simp [slotOfR16, halvesOf]) v
  | sp => exact frame_write_sp (frame_refl s) (by simp [slotOfR16]) v

/-- A store at a named address stays in the frame. -/
theorem frame_putByte (h : frame regs slots cells s t) {a : Word} (ha : a ∈ cells) (v : Byte) :
    frame regs slots cells s (t.putByte a v) :=
  frame_trans h ⟨⟨fun r _ => read8_putByte _ _ _ r, fun _ => rfl, fun _ => rfl,
    fun b hb => by
      have ne : b ≠ a := fun e => hb (e ▸ ha)
      rw [byteAt_putByte, if_neg ne],
    rfl⟩, ⟨rfl, rfl⟩, fun _ _ => rfl⟩

/-! ## Operands -/

theorem operandByte_register {i : R8} {r : Reg8} (h : regOfR8 i = some r) (s : State) : operandByte i s = s.read8 r := by
  cases i <;> simp only [regOfR8, Option.some.injEq, reduceCtorEq] at h <;> subst h <;> rfl

theorem operandRegs_register {i : R8} {r : Reg8} (h : regOfR8 i = some r) : operandRegs i = [r] := by
  cases i <;> simp only [regOfR8, Option.some.injEq, reduceCtorEq] at h <;> subst h <;> rfl

/-- A reachable operand is read as the byte it names. -/
theorem readR8_ok {i : R8} {s : State} (h : operandReachable i s) : readR8 i s = .ok (operandByte i s) := by
  cases i <;> first | rfl | exact readByte_ok (h rfl) _ _

theorem readR8_error {s : State} (h : isStorage (s.read16 .hl) = false) :
    readR8 .hlMem s = .error (.busFault (s.read16 .hl) .read s) := readByte_error h _ _

/-- A reachable operand is written, and nothing else; no flag changes. -/
theorem writeR8_ok {i : R8} {s : State} (h : operandReachable i s) (v : Byte) :
    ∃ t, writeR8 i v s = .ok t ∧ operandByte i t = v ∧ frame (operandRegs i) [] (operandCells i s) s t ∧
      ∀ f, t.readFlag f = s.readFlag f := by
  by_cases reg : i.isRegister = true
  · obtain ⟨r, hr, ne⟩ := regOfR8_some reg
    refine ⟨s.write8 r v, writeR8_register hr v s, ?_, frame_write8 (frame_refl s) ?_ ne v, fun f => ?_⟩
    · rw [operandByte_register hr, read8_write8_self _ _ _ ne]
    · simp [operandRegs_register hr]
    · exact readFlag_write8 _ _ _ _ ne
  · have mem : i = .hlMem := by cases i <;> first | rfl | exact absurd rfl reg
    subst mem
    refine ⟨s.putByte (s.read16 .hl) v, writeByte_ok (h rfl) v s, ?_, ?_, fun _ => rfl⟩
    · show State.byteAt _ _ = _
      simp
    · exact frame_putByte (frame_refl s) (by simp [operandCells]) v

/-- Flag writes leave every operand. -/
@[simp] theorem operandByte_writeFlag (i : R8) (s : State) (f : Flag) (v : Bool) :
    operandByte i (s.writeFlag f v) = operandByte i s := by
  cases i <;> simp [operandByte]

@[simp] theorem operandByte_writeFlags (i : R8) (s : State) (z n h c : Bool) :
    operandByte i (s.writeFlags z n h c) = operandByte i s := by
  simp [State.writeFlags]

/-- `condMeans` is the test the machine makes (00_scope.md R14). -/
theorem condHolds_eq_true (cc : Cond) (s : State) : condHolds cc s = true ↔ condMeans cc s := by
  cases cc <;> simp [condHolds, condMeans]

end Sys2Proof.Machine
end

