-- ==== Sys2Proof/Laws/PerInstr.lean ====
section
/-! SUPPORT. The per-instruction family `EncodedLength`: every instruction is 1, 2 or 3 bytes long, as many as its format
says (30_encoding.md R100, R101, R112). -/

namespace Sys2Proof.Laws

/-- How many bytes an instruction takes, by its format: OP 1, OP_IMM8 2, OP_IMM16 3, CB 2 (30_encoding.md R101, R112). -/
def formatLength : Instr → Nat
  | .nop => 1
  | .ldA16Sp _ => 3
  | .stop => 1
  | .jrE8 _ => 2
  | .rlca => 1
  | .rrca => 1
  | .rla => 1
  | .rra => 1
  | .daa => 1
  | .cpl => 1
  | .scf => 1
  | .ccf => 1
  | .halt => 1
  | .ldHlImm8 _ => 2
  | .incHl => 1
  | .decHl => 1
  | .jrCcE8 _ _ => 2
  | .ldR16Imm16 _ _ => 3
  | .ldR16MemA _ => 1
  | .ldAR16Mem _ => 1
  | .incR16 _ => 1
  | .decR16 _ => 1
  | .addHlR16 _ => 1
  | .incR8 _ => 1
  | .decR8 _ => 1
  | .ldR8Imm8 _ _ => 2
  | .ldR8Hl _ => 1
  | .ldHlR8 _ => 1
  | .ldR8R8 _ _ => 1
  | .addAR8 _ => 1
  | .adcAR8 _ => 1
  | .subAR8 _ => 1
  | .sbcAR8 _ => 1
  | .andAR8 _ => 1
  | .xorAR8 _ => 1
  | .orAR8 _ => 1
  | .cpAR8 _ => 1
  | .addAImm8 _ => 2
  | .adcAImm8 _ => 2
  | .subAImm8 _ => 2
  | .sbcAImm8 _ => 2
  | .andAImm8 _ => 2
  | .xorAImm8 _ => 2
  | .orAImm8 _ => 2
  | .cpAImm8 _ => 2
  | .retCc _ => 1
  | .jpCcA16 _ _ => 3
  | .callCcA16 _ _ => 3
  | .jpA16 _ => 3
  | .ret => 1
  | .reti => 1
  | .callA16 _ => 3
  | .prefixCb _ => 2
  | .jpHl => 1
  | .rstVec _ => 1
  | .popR16stk _ => 1
  | .pushR16stk _ => 1
  | .ldhA8A _ => 2
  | .ldhCA => 1
  | .ldA16A _ => 3
  | .ldhAA8 _ => 2
  | .ldhAC => 1
  | .ldAA16 _ => 3
  | .addSpE8 _ => 2
  | .ldHlSpE8 _ => 2
  | .ldSpHl => 1
  | .di => 1
  | .ei => 1
  | .illegalD3 => 1
  | .illegalDB => 1
  | .illegalDD => 1
  | .illegalE3 => 1
  | .illegalE4 => 1
  | .illegalEB => 1
  | .illegalEC => 1
  | .illegalED => 1
  | .illegalF4 => 1
  | .illegalFC => 1
  | .illegalFD => 1
  | .rlcR8 _ => 2
  | .rrcR8 _ => 2
  | .rlR8 _ => 2
  | .rrR8 _ => 2
  | .slaR8 _ => 2
  | .sraR8 _ => 2
  | .swapR8 _ => 2
  | .srlR8 _ => 2
  | .bitNR8 _ _ => 2
  | .resNR8 _ _ => 2
  | .setNR8 _ _ => 2

/-- The encoding of the instruction is as long as its format says, at most `Config.maxLength` bytes. -/
def EncodedLength.Statement (i : Instr) : Prop := (encode i).length = formatLength i ∧ formatLength i ≤ Config.maxLength

theorem EncodedLength.nop : EncodedLength.Statement .nop := ⟨rfl, Nat.le_of_ble_eq_true rfl⟩
theorem EncodedLength.ldA16Sp (a16 : Word) : EncodedLength.Statement (.ldA16Sp a16) := ⟨rfl, Nat.le_of_ble_eq_true rfl⟩
theorem EncodedLength.stop : EncodedLength.Statement .stop := ⟨rfl, Nat.le_of_ble_eq_true rfl⟩
theorem EncodedLength.jrE8 (e8 : Byte) : EncodedLength.Statement (.jrE8 e8) := ⟨rfl, Nat.le_of_ble_eq_true rfl⟩
theorem EncodedLength.rlca : EncodedLength.Statement .rlca := ⟨rfl, Nat.le_of_ble_eq_true rfl⟩
theorem EncodedLength.rrca : EncodedLength.Statement .rrca := ⟨rfl, Nat.le_of_ble_eq_true rfl⟩
theorem EncodedLength.rla : EncodedLength.Statement .rla := ⟨rfl, Nat.le_of_ble_eq_true rfl⟩
theorem EncodedLength.rra : EncodedLength.Statement .rra := ⟨rfl, Nat.le_of_ble_eq_true rfl⟩
theorem EncodedLength.daa : EncodedLength.Statement .daa := ⟨rfl, Nat.le_of_ble_eq_true rfl⟩
theorem EncodedLength.cpl : EncodedLength.Statement .cpl := ⟨rfl, Nat.le_of_ble_eq_true rfl⟩
theorem EncodedLength.scf : EncodedLength.Statement .scf := ⟨rfl, Nat.le_of_ble_eq_true rfl⟩
theorem EncodedLength.ccf : EncodedLength.Statement .ccf := ⟨rfl, Nat.le_of_ble_eq_true rfl⟩
theorem EncodedLength.halt : EncodedLength.Statement .halt := ⟨rfl, Nat.le_of_ble_eq_true rfl⟩
theorem EncodedLength.ldHlImm8 (imm8 : Byte) : EncodedLength.Statement (.ldHlImm8 imm8) := ⟨rfl, Nat.le_of_ble_eq_true rfl⟩
theorem EncodedLength.incHl : EncodedLength.Statement .incHl := ⟨rfl, Nat.le_of_ble_eq_true rfl⟩
theorem EncodedLength.decHl : EncodedLength.Statement .decHl := ⟨rfl, Nat.le_of_ble_eq_true rfl⟩
theorem EncodedLength.jrCcE8 (cc : Cond) (e8 : Byte) : EncodedLength.Statement (.jrCcE8 cc e8) := ⟨rfl, Nat.le_of_ble_eq_true rfl⟩
theorem EncodedLength.ldR16Imm16 (p : R16) (imm16 : Word) : EncodedLength.Statement (.ldR16Imm16 p imm16) := ⟨rfl, Nat.le_of_ble_eq_true rfl⟩
theorem EncodedLength.ldR16MemA (p : R16Mem) : EncodedLength.Statement (.ldR16MemA p) := ⟨rfl, Nat.le_of_ble_eq_true rfl⟩
theorem EncodedLength.ldAR16Mem (p : R16Mem) : EncodedLength.Statement (.ldAR16Mem p) := ⟨rfl, Nat.le_of_ble_eq_true rfl⟩
theorem EncodedLength.incR16 (p : R16) : EncodedLength.Statement (.incR16 p) := ⟨rfl, Nat.le_of_ble_eq_true rfl⟩
theorem EncodedLength.decR16 (p : R16) : EncodedLength.Statement (.decR16 p) := ⟨rfl, Nat.le_of_ble_eq_true rfl⟩
theorem EncodedLength.addHlR16 (p : R16) : EncodedLength.Statement (.addHlR16 p) := ⟨rfl, Nat.le_of_ble_eq_true rfl⟩
theorem EncodedLength.incR8 (dst : R8) : EncodedLength.Statement (.incR8 dst) := ⟨rfl, Nat.le_of_ble_eq_true rfl⟩
theorem EncodedLength.decR8 (dst : R8) : EncodedLength.Statement (.decR8 dst) := ⟨rfl, Nat.le_of_ble_eq_true rfl⟩
theorem EncodedLength.ldR8Imm8 (dst : R8) (imm8 : Byte) : EncodedLength.Statement (.ldR8Imm8 dst imm8) := ⟨rfl, Nat.le_of_ble_eq_true rfl⟩
theorem EncodedLength.ldR8Hl (dst : R8) : EncodedLength.Statement (.ldR8Hl dst) := ⟨rfl, Nat.le_of_ble_eq_true rfl⟩
theorem EncodedLength.ldHlR8 (r : R8) : EncodedLength.Statement (.ldHlR8 r) := ⟨rfl, Nat.le_of_ble_eq_true rfl⟩
theorem EncodedLength.ldR8R8 (dst : R8) (r : R8) : EncodedLength.Statement (.ldR8R8 dst r) := ⟨rfl, Nat.le_of_ble_eq_true rfl⟩
theorem EncodedLength.addAR8 (r : R8) : EncodedLength.Statement (.addAR8 r) := ⟨rfl, Nat.le_of_ble_eq_true rfl⟩
theorem EncodedLength.adcAR8 (r : R8) : EncodedLength.Statement (.adcAR8 r) := ⟨rfl, Nat.le_of_ble_eq_true rfl⟩
theorem EncodedLength.subAR8 (r : R8) : EncodedLength.Statement (.subAR8 r) := ⟨rfl, Nat.le_of_ble_eq_true rfl⟩
theorem EncodedLength.sbcAR8 (r : R8) : EncodedLength.Statement (.sbcAR8 r) := ⟨rfl, Nat.le_of_ble_eq_true rfl⟩
theorem EncodedLength.andAR8 (r : R8) : EncodedLength.Statement (.andAR8 r) := ⟨rfl, Nat.le_of_ble_eq_true rfl⟩
theorem EncodedLength.xorAR8 (r : R8) : EncodedLength.Statement (.xorAR8 r) := ⟨rfl, Nat.le_of_ble_eq_true rfl⟩
theorem EncodedLength.orAR8 (r : R8) : EncodedLength.Statement (.orAR8 r) := ⟨rfl, Nat.le_of_ble_eq_true rfl⟩
theorem EncodedLength.cpAR8 (r : R8) : EncodedLength.Statement (.cpAR8 r) := ⟨rfl, Nat.le_of_ble_eq_true rfl⟩
theorem EncodedLength.addAImm8 (imm8 : Byte) : EncodedLength.Statement (.addAImm8 imm8) := ⟨rfl, Nat.le_of_ble_eq_true rfl⟩
theorem EncodedLength.adcAImm8 (imm8 : Byte) : EncodedLength.Statement (.adcAImm8 imm8) := ⟨rfl, Nat.le_of_ble_eq_true rfl⟩
theorem EncodedLength.subAImm8 (imm8 : Byte) : EncodedLength.Statement (.subAImm8 imm8) := ⟨rfl, Nat.le_of_ble_eq_true rfl⟩
theorem EncodedLength.sbcAImm8 (imm8 : Byte) : EncodedLength.Statement (.sbcAImm8 imm8) := ⟨rfl, Nat.le_of_ble_eq_true rfl⟩
theorem EncodedLength.andAImm8 (imm8 : Byte) : EncodedLength.Statement (.andAImm8 imm8) := ⟨rfl, Nat.le_of_ble_eq_true rfl⟩
theorem EncodedLength.xorAImm8 (imm8 : Byte) : EncodedLength.Statement (.xorAImm8 imm8) := ⟨rfl, Nat.le_of_ble_eq_true rfl⟩
theorem EncodedLength.orAImm8 (imm8 : Byte) : EncodedLength.Statement (.orAImm8 imm8) := ⟨rfl, Nat.le_of_ble_eq_true rfl⟩
theorem EncodedLength.cpAImm8 (imm8 : Byte) : EncodedLength.Statement (.cpAImm8 imm8) := ⟨rfl, Nat.le_of_ble_eq_true rfl⟩
theorem EncodedLength.retCc (cc : Cond) : EncodedLength.Statement (.retCc cc) := ⟨rfl, Nat.le_of_ble_eq_true rfl⟩
theorem EncodedLength.jpCcA16 (cc : Cond) (a16 : Word) : EncodedLength.Statement (.jpCcA16 cc a16) := ⟨rfl, Nat.le_of_ble_eq_true rfl⟩
theorem EncodedLength.callCcA16 (cc : Cond) (a16 : Word) : EncodedLength.Statement (.callCcA16 cc a16) := ⟨rfl, Nat.le_of_ble_eq_true rfl⟩
theorem EncodedLength.jpA16 (a16 : Word) : EncodedLength.Statement (.jpA16 a16) := ⟨rfl, Nat.le_of_ble_eq_true rfl⟩
theorem EncodedLength.ret : EncodedLength.Statement .ret := ⟨rfl, Nat.le_of_ble_eq_true rfl⟩
theorem EncodedLength.reti : EncodedLength.Statement .reti := ⟨rfl, Nat.le_of_ble_eq_true rfl⟩
theorem EncodedLength.callA16 (a16 : Word) : EncodedLength.Statement (.callA16 a16) := ⟨rfl, Nat.le_of_ble_eq_true rfl⟩
theorem EncodedLength.prefixCb (cb : Byte) : EncodedLength.Statement (.prefixCb cb) := ⟨rfl, Nat.le_of_ble_eq_true rfl⟩
theorem EncodedLength.jpHl : EncodedLength.Statement .jpHl := ⟨rfl, Nat.le_of_ble_eq_true rfl⟩
theorem EncodedLength.rstVec (t : BitVec 3) : EncodedLength.Statement (.rstVec t) := ⟨rfl, Nat.le_of_ble_eq_true rfl⟩
theorem EncodedLength.popR16stk (p : R16Stk) : EncodedLength.Statement (.popR16stk p) := ⟨rfl, Nat.le_of_ble_eq_true rfl⟩
theorem EncodedLength.pushR16stk (p : R16Stk) : EncodedLength.Statement (.pushR16stk p) := ⟨rfl, Nat.le_of_ble_eq_true rfl⟩
theorem EncodedLength.ldhA8A (a8 : Byte) : EncodedLength.Statement (.ldhA8A a8) := ⟨rfl, Nat.le_of_ble_eq_true rfl⟩
theorem EncodedLength.ldhCA : EncodedLength.Statement .ldhCA := ⟨rfl, Nat.le_of_ble_eq_true rfl⟩
theorem EncodedLength.ldA16A (a16 : Word) : EncodedLength.Statement (.ldA16A a16) := ⟨rfl, Nat.le_of_ble_eq_true rfl⟩
theorem EncodedLength.ldhAA8 (a8 : Byte) : EncodedLength.Statement (.ldhAA8 a8) := ⟨rfl, Nat.le_of_ble_eq_true rfl⟩
theorem EncodedLength.ldhAC : EncodedLength.Statement .ldhAC := ⟨rfl, Nat.le_of_ble_eq_true rfl⟩
theorem EncodedLength.ldAA16 (a16 : Word) : EncodedLength.Statement (.ldAA16 a16) := ⟨rfl, Nat.le_of_ble_eq_true rfl⟩
theorem EncodedLength.addSpE8 (e8 : Byte) : EncodedLength.Statement (.addSpE8 e8) := ⟨rfl, Nat.le_of_ble_eq_true rfl⟩
theorem EncodedLength.ldHlSpE8 (e8 : Byte) : EncodedLength.Statement (.ldHlSpE8 e8) := ⟨rfl, Nat.le_of_ble_eq_true rfl⟩
theorem EncodedLength.ldSpHl : EncodedLength.Statement .ldSpHl := ⟨rfl, Nat.le_of_ble_eq_true rfl⟩
theorem EncodedLength.di : EncodedLength.Statement .di := ⟨rfl, Nat.le_of_ble_eq_true rfl⟩
theorem EncodedLength.ei : EncodedLength.Statement .ei := ⟨rfl, Nat.le_of_ble_eq_true rfl⟩
theorem EncodedLength.illegalD3 : EncodedLength.Statement .illegalD3 := ⟨rfl, Nat.le_of_ble_eq_true rfl⟩
theorem EncodedLength.illegalDB : EncodedLength.Statement .illegalDB := ⟨rfl, Nat.le_of_ble_eq_true rfl⟩
theorem EncodedLength.illegalDD : EncodedLength.Statement .illegalDD := ⟨rfl, Nat.le_of_ble_eq_true rfl⟩
theorem EncodedLength.illegalE3 : EncodedLength.Statement .illegalE3 := ⟨rfl, Nat.le_of_ble_eq_true rfl⟩
theorem EncodedLength.illegalE4 : EncodedLength.Statement .illegalE4 := ⟨rfl, Nat.le_of_ble_eq_true rfl⟩
theorem EncodedLength.illegalEB : EncodedLength.Statement .illegalEB := ⟨rfl, Nat.le_of_ble_eq_true rfl⟩
theorem EncodedLength.illegalEC : EncodedLength.Statement .illegalEC := ⟨rfl, Nat.le_of_ble_eq_true rfl⟩
theorem EncodedLength.illegalED : EncodedLength.Statement .illegalED := ⟨rfl, Nat.le_of_ble_eq_true rfl⟩
theorem EncodedLength.illegalF4 : EncodedLength.Statement .illegalF4 := ⟨rfl, Nat.le_of_ble_eq_true rfl⟩
theorem EncodedLength.illegalFC : EncodedLength.Statement .illegalFC := ⟨rfl, Nat.le_of_ble_eq_true rfl⟩
theorem EncodedLength.illegalFD : EncodedLength.Statement .illegalFD := ⟨rfl, Nat.le_of_ble_eq_true rfl⟩
theorem EncodedLength.rlcR8 (t : R8) : EncodedLength.Statement (.rlcR8 t) := ⟨rfl, Nat.le_of_ble_eq_true rfl⟩
theorem EncodedLength.rrcR8 (t : R8) : EncodedLength.Statement (.rrcR8 t) := ⟨rfl, Nat.le_of_ble_eq_true rfl⟩
theorem EncodedLength.rlR8 (t : R8) : EncodedLength.Statement (.rlR8 t) := ⟨rfl, Nat.le_of_ble_eq_true rfl⟩
theorem EncodedLength.rrR8 (t : R8) : EncodedLength.Statement (.rrR8 t) := ⟨rfl, Nat.le_of_ble_eq_true rfl⟩
theorem EncodedLength.slaR8 (t : R8) : EncodedLength.Statement (.slaR8 t) := ⟨rfl, Nat.le_of_ble_eq_true rfl⟩
theorem EncodedLength.sraR8 (t : R8) : EncodedLength.Statement (.sraR8 t) := ⟨rfl, Nat.le_of_ble_eq_true rfl⟩
theorem EncodedLength.swapR8 (t : R8) : EncodedLength.Statement (.swapR8 t) := ⟨rfl, Nat.le_of_ble_eq_true rfl⟩
theorem EncodedLength.srlR8 (t : R8) : EncodedLength.Statement (.srlR8 t) := ⟨rfl, Nat.le_of_ble_eq_true rfl⟩
theorem EncodedLength.bitNR8 (n : BitVec 3) (t : R8) : EncodedLength.Statement (.bitNR8 n t) := ⟨rfl, Nat.le_of_ble_eq_true rfl⟩
theorem EncodedLength.resNR8 (n : BitVec 3) (t : R8) : EncodedLength.Statement (.resNR8 n t) := ⟨rfl, Nat.le_of_ble_eq_true rfl⟩
theorem EncodedLength.setNR8 (n : BitVec 3) (t : R8) : EncodedLength.Statement (.setNR8 n t) := ⟨rfl, Nat.le_of_ble_eq_true rfl⟩

end Sys2Proof.Laws
end

