-- ==== Sys2Proof/Tests/Slice0.lean ====
section
/-! SUPPORT. Tests: ill-formed terms refused, words written out from the spec's encodings, one step of each instruction on
a small state with the spec's own worked example, and a witness for the hypotheses of each statement. -/

namespace Sys2Proof.Tests

open Sys2Proof Sys2Proof.Machine

/-! ## Ill-formed terms -/

theorem test_wf_refuses_inc_of_memory : (Instr.incR8 .hlMem).wf = false := by decide
theorem test_wf_refuses_dec_of_memory : (Instr.decR8 .hlMem).wf = false := by decide
theorem test_wf_refuses_load_immediate_to_memory : (Instr.ldR8Imm8 .hlMem 0x12).wf = false := by decide
theorem test_wf_refuses_load_of_memory_to_memory : (Instr.ldR8Hl .hlMem).wf = false := by decide
theorem test_wf_refuses_store_of_memory_to_memory : (Instr.ldHlR8 .hlMem).wf = false := by decide
theorem test_wf_refuses_ld_with_memory_destination : (Instr.ldR8R8 .hlMem .a).wf = false := by decide
theorem test_wf_refuses_ld_with_memory_source : (Instr.ldR8R8 .a .hlMem).wf = false := by decide
theorem test_wf_refuses_prefix : (Instr.prefixCb 0x37).wf = false := by decide
theorem test_wf_takes_memory_operand_of_add : (Instr.addAR8 .hlMem).wf = true := by decide

/-! ## Decoding: words written out bit by bit from the encodings of the rules -/

/-- The instruction that bytes decode to, and how many bytes are left over. -/
def decoded (bytes : List Byte) : Option (Instr × Nat) :=
  match decode bytes with
  | .ok (i, rest) => some (i, rest.length)
  | .error _ => none

/-- R140 to R144: `01 ddd sss`, `01 ddd 110`, `01 110 sss`, `00 ddd 110`, 0x36. -/
theorem test_decode_8bit_loads :
    decoded [0b01111000] = some (.ldR8R8 .a .b, 0) ∧ decoded [0b01101001] = some (.ldR8R8 .l .c, 0) ∧
    decoded [0b01100110] = some (.ldR8Hl .h, 0) ∧ decoded [0b01110011] = some (.ldHlR8 .e, 0) ∧
    decoded [0b00010110, 0x5A] = some (.ldR8Imm8 .d 0x5A, 0) ∧ decoded [0x36, 0xAB] = some (.ldHlImm8 0xAB, 0) := by
  decide

/-- R145 to R147: `00 pp0 001`, `00 pp0 010`, `00 pp1 010`. -/
theorem test_decode_pair_loads :
    decoded [0b00110001, 0xFE, 0xFF] = some (.ldR16Imm16 .sp 0xFFFE, 0) ∧
    decoded [0b00100010] = some (.ldR16MemA .hlInc, 0) ∧ decoded [0b00111010] = some (.ldAR16Mem .hlDec, 0) ∧
    decoded [0b00000010] = some (.ldR16MemA .bc, 0) ∧ decoded [0b00011010] = some (.ldAR16Mem .de, 0) := by
  decide

/-- R148 to R157: the high-memory, absolute and stack-pointer forms. -/
theorem test_decode_high_absolute_and_sp_loads :
    decoded [0xE0, 0x80] = some (.ldhA8A 0x80, 0) ∧ decoded [0xF0, 0x80] = some (.ldhAA8 0x80, 0) ∧
    decoded [0xE2] = some (.ldhCA, 0) ∧ decoded [0xF2] = some (.ldhAC, 0) ∧
    decoded [0x08, 0x00, 0xC1] = some (.ldA16Sp 0xC100, 0) ∧ decoded [0xEA, 0x34, 0xC2] = some (.ldA16A 0xC234, 0) ∧
    decoded [0xFA, 0x34, 0xC2] = some (.ldAA16 0xC234, 0) ∧ decoded [0xF9] = some (.ldSpHl, 0) ∧
    decoded [0xF8, 0xFF] = some (.ldHlSpE8 0xFF, 0) ∧ decoded [0xE8, 0x01] = some (.addSpE8 0x01, 0) := by
  decide

/-- R170 to R174 and R200 to R202: `10 iii sss`, the operations in the order ADD ADC SUB SBC AND XOR OR CP. -/
theorem test_decode_alu_registers :
    decoded [0b10000000] = some (.addAR8 .b, 0) ∧ decoded [0b10001001] = some (.adcAR8 .c, 0) ∧
    decoded [0b10010010] = some (.subAR8 .d, 0) ∧ decoded [0b10011011] = some (.sbcAR8 .e, 0) ∧
    decoded [0b10100100] = some (.andAR8 .h, 0) ∧ decoded [0b10101101] = some (.xorAR8 .l, 0) ∧
    decoded [0b10110110] = some (.orAR8 .hlMem, 0) ∧ decoded [0b10111111] = some (.cpAR8 .a, 0) := by
  decide

/-- R175 to R179 and R203 to R205. -/
theorem test_decode_alu_immediates :
    decoded [0xC6, 0x01] = some (.addAImm8 0x01, 0) ∧ decoded [0xCE, 0x02] = some (.adcAImm8 0x02, 0) ∧
    decoded [0xD6, 0x03] = some (.subAImm8 0x03, 0) ∧ decoded [0xDE, 0x04] = some (.sbcAImm8 0x04, 0) ∧
    decoded [0xE6, 0x05] = some (.andAImm8 0x05, 0) ∧ decoded [0xEE, 0x06] = some (.xorAImm8 0x06, 0) ∧
    decoded [0xF6, 0x07] = some (.orAImm8 0x07, 0) ∧ decoded [0xFE, 0x08] = some (.cpAImm8 0x08, 0) := by
  decide

/-- R180 to R186: `00 ddd 100`, `00 ddd 101`, 0x34, 0x35, `00 pp1 001`, `00 pp0 011`, `00 pp1 011`. -/
theorem test_decode_increments_and_pair_arithmetic :
    decoded [0b00101100] = some (.incR8 .l, 0) ∧ decoded [0b00001101] = some (.decR8 .c, 0) ∧
    decoded [0x34] = some (.incHl, 0) ∧ decoded [0x35] = some (.decHl, 0) ∧
    decoded [0b00101001] = some (.addHlR16 .hl, 0) ∧ decoded [0b00010011] = some (.incR16 .de, 0) ∧
    decoded [0b00111011] = some (.decR16 .sp, 0) := by
  decide

/-- R206, R215 to R218, R290, R292 to R295. -/
theorem test_decode_single_bytes :
    decoded [0x2F] = some (.cpl, 0) ∧ decoded [0x07] = some (.rlca, 0) ∧ decoded [0x0F] = some (.rrca, 0) ∧
    decoded [0x17] = some (.rla, 0) ∧ decoded [0x1F] = some (.rra, 0) ∧ decoded [0x27] = some (.daa, 0) ∧
    decoded [0x00] = some (.nop, 0) ∧ decoded [0x37] = some (.scf, 0) ∧ decoded [0x3F] = some (.ccf, 0) ∧
    decoded [0x76] = some (.halt, 0) ∧ decoded [0xF3] = some (.di, 0) ∧ decoded [0xFB] = some (.ei, 0) := by
  decide

/-- R219 to R229: 0xCB, then `00 iii ttt`, `01 nnn ttt`, `10 nnn ttt`, `11 nnn ttt`; the prefix row itself (R296) is read as
the instruction its second byte selects. -/
theorem test_decode_cb_page :
    decoded [0xCB, 0b00000000] = some (.rlcR8 .b, 0) ∧ decoded [0xCB, 0b00001001] = some (.rrcR8 .c, 0) ∧
    decoded [0xCB, 0b00010101] = some (.rlR8 .l, 0) ∧ decoded [0xCB, 0b00011111] = some (.rrR8 .a, 0) ∧
    decoded [0xCB, 0b00100010] = some (.slaR8 .d, 0) ∧ decoded [0xCB, 0b00101110] = some (.sraR8 .hlMem, 0) ∧
    decoded [0xCB, 0b00110111] = some (.swapR8 .a, 0) ∧ decoded [0xCB, 0b00111100] = some (.srlR8 .h, 0) ∧
    decoded [0xCB, 0b01111100] = some (.bitNR8 7 .h, 0) ∧ decoded [0xCB, 0b10000111] = some (.resNR8 0 .a, 0) ∧
    decoded [0xCB, 0b11111110] = some (.setNR8 7 .hlMem, 0) ∧ encode (.prefixCb 0x37) = [0xCB, 0x37] := by
  decide

/-- R250 to R260: `001 cc 000`, `110 cc 010`, `110 cc 100`, `110 cc 000`, `11 ttt 111`. -/
theorem test_decode_control_flow :
    decoded [0x18, 0x05] = some (.jrE8 0x05, 0) ∧ decoded [0b00111000, 0x20] = some (.jrCcE8 .c 0x20, 0) ∧
    decoded [0xC3, 0x50, 0x01] = some (.jpA16 0x0150, 0) ∧ decoded [0b11001010, 0x00, 0x80] = some (.jpCcA16 .z 0x8000, 0) ∧
    decoded [0xE9] = some (.jpHl, 0) ∧ decoded [0xCD, 0x00, 0x02] = some (.callA16 0x0200, 0) ∧
    decoded [0b11010100, 0x00, 0x02] = some (.callCcA16 .nc 0x0200, 0) ∧ decoded [0xC9] = some (.ret, 0) ∧
    decoded [0xD9] = some (.reti, 0) ∧ decoded [0b11000000] = some (.retCc .nz, 0) ∧
    decoded [0b11101111] = some (.rstVec 5, 0) := by
  decide

/-- R280, R281: `11 pp0 101`, `11 pp0 001`. -/
theorem test_decode_stack :
    decoded [0b11110101] = some (.pushR16stk .af, 0) ∧ decoded [0b11100101] = some (.pushR16stk .hl, 0) ∧
    decoded [0b11000001] = some (.popR16stk .bc, 0) ∧ decoded [0b11010001] = some (.popR16stk .de, 0) := by
  decide

/-- R297, R298. -/
theorem test_decode_bytes_that_are_no_instruction :
    decoded [0x10] = some (.stop, 0) ∧ decoded [0xD3] = some (.illegalD3, 0) ∧ decoded [0xDB] = some (.illegalDB, 0) ∧
    decoded [0xDD] = some (.illegalDD, 0) ∧ decoded [0xE3] = some (.illegalE3, 0) ∧
    decoded [0xE4] = some (.illegalE4, 0) ∧ decoded [0xEB] = some (.illegalEB, 0) ∧
    decoded [0xEC] = some (.illegalEC, 0) ∧ decoded [0xED] = some (.illegalED, 0) ∧
    decoded [0xF4] = some (.illegalF4, 0) ∧ decoded [0xFC] = some (.illegalFC, 0) ∧
    decoded [0xFD] = some (.illegalFD, 0) := by
  decide

theorem test_decode_leaves_the_rest : decoded [0x3E, 0x05, 0x76, 0x00] = some (.ldR8Imm8 .a 0x05, 2) := by decide

theorem test_decode_needs_every_byte :
    decoded [] = none ∧ decoded [0x3E] = none ∧ decoded [0xC3, 0x50] = none ∧ decoded [0xCB] = none := by decide

/-- A table word has the first byte in bits 7:0; bits at or above `nbits` are 0. -/
theorem test_table_words :
    decodeTableWord 8 0x80 = some (.addAR8 .b) ∧ decodeTableWord 16 0x053E = some (.ldR8Imm8 .a 0x05) ∧
    decodeTableWord 8 0x053E = some (.ldR8Imm8 .a 0x00) ∧ decodeTableWord 16 0x7CCB = some (.bitNR8 7 .h) := by
  decide

/-! ## One step of each instruction, on the worked examples of its rule -/

/-- One step of the machine `s` with `bytes` at PC. -/
def ran (bytes : List Byte) (s : State) : Result := step (readyAt bytes s)

/-- What is seen of a next state. -/
def seen {α : Type} (view : State → α) : Result → Option α
  | .next t => some (view t)
  | _ => none

/-- The flags Z, N, H, C. -/
def znhc (t : State) : Bool × Bool × Bool × Bool := (t.readFlag .z, t.readFlag .n, t.readFlag .h, t.readFlag .c)

/-- A and the flags. -/
def aAndFlags (t : State) : Byte × Bool × Bool × Bool × Bool := (t.read8 .a, znhc t)

/-- The power-on machine with AF, PC at 0x0100. -/
def withAf (af : Word) : State := { State.reset with af := af, pc := 0x0100 }

/-- The same with BC too. -/
def withAfBc (af bc : Word) : State := { withAf af with bc := bc }

/-- The power-on machine with HL, and a byte of memory at HL. -/
def withHl (hl : Word) (v : Byte) : State := ({ State.reset with hl := hl, pc := 0x0100 } : State).putByte hl v

/-- The power-on machine with SP, PC at 0x0100. -/
def withSp (sp : Word) : State := { State.reset with sp := sp, pc := 0x0100 }

theorem test_ld_a_b : seen (fun t => (t.read8 .a, t.read8 .b, t.pc)) (ran [0x78] (withAfBc 0 0x1200)) =
    some (0x12, 0x12, 0x0101) := by decide

theorem test_ld_h_from_hl : seen (fun t => t.hl) (ran [0x66] (withHl 0xC000 0x5A)) = some 0x5A00 := by decide

theorem test_ld_to_hl : seen (fun t => t.byteAt 0xC0AB) (ran [0x75] (withHl 0xC0AB 0x00)) = some 0xAB := by decide

theorem test_ld_b_imm8 : seen (fun t => t.bc) (ran [0x06, 0x03] (withAfBc 0 0xFFEE)) = some 0x03EE := by decide

theorem test_ld_hl_imm8 : seen (fun t => (t.byteAt 0xC123, t.pc)) (ran [0x36, 0xAB] (withHl 0xC123 0)) =
    some (0xAB, 0x0102) := by decide

theorem test_ld_sp_imm16 : seen (fun t => (t.sp, t.pc)) (ran [0x31, 0xFE, 0xFF] (withSp 0)) = some (0xFFFE, 0x0103) := by
  decide

theorem test_ld_hl_inc_a : seen (fun t => (t.byteAt 0xC000, t.hl))
    (ran [0x22] { withHl 0xC000 0 with af := 0x1100 }) = some (0x11, 0xC001) := by decide

theorem test_ld_a_hl_dec_wraps : seen (fun t => (t.read8 .a, t.hl)) (ran [0x3A] (withHl 0x0000 0x22)) =
    some (0x22, 0xFFFF) := by decide

theorem test_ldh_a8_a : seen (fun t => t.byteAt 0xFF80) (ran [0xE0, 0x80] (withAf 0x4200)) = some 0x42 := by decide

theorem test_ldh_a_a8 : seen (fun t => t.read8 .a) (ran [0xF0, 0x80] ((withAf 0).putByte 0xFF80 0x42)) = some 0x42 := by
  decide

theorem test_ldh_c_a : seen (fun t => t.byteAt 0xFF10) (ran [0xE2] (withAfBc 0x9900 0x0010)) = some 0x99 := by decide

theorem test_ldh_a_c : seen (fun t => t.read8 .a) (ran [0xF2] ((withAfBc 0 0x0010).putByte 0xFF10 0x99)) = some 0x99 := by
  decide

theorem test_ld_a16_sp : seen (fun t => (t.byteAt 0xC100, t.byteAt 0xC101)) (ran [0x08, 0x00, 0xC1] (withSp 0xFFF8)) =
    some (0xF8, 0xFF) := by decide

theorem test_ld_a16_sp_wraps : seen (fun t => (t.byteAt 0xFFFF, t.byteAt 0x0000))
    (ran [0x08, 0xFF, 0xFF] (withSp 0x1234)) = some (0x34, 0x12) := by decide

theorem test_ld_a16_a : seen (fun t => t.byteAt 0xC234) (ran [0xEA, 0x34, 0xC2] (withAf 0x0700)) = some 0x07 := by decide

theorem test_ld_a_a16 : seen (fun t => t.read8 .a) (ran [0xFA, 0x34, 0xC2] ((withAf 0).putByte 0xC234 0x07)) =
    some 0x07 := by decide

theorem test_ld_sp_hl : seen (fun t => t.sp) (ran [0xF9] (withHl 0xD000 0)) = some 0xD000 := by decide

theorem test_ld_hl_sp_minus_one : seen (fun t => (t.hl, znhc t)) (ran [0xF8, 0xFF] (withSp 0x0001)) =
    some (0x0000, false, false, true, true) := by decide

theorem test_add_sp_low_byte_only : seen (fun t => (t.sp, znhc t)) (ran [0xE8, 0xFF] (withSp 0x0100)) =
    some (0x00FF, false, false, false, false) := by decide

theorem test_add_a_b : seen aAndFlags (ran [0x80] (withAfBc 0xFF00 0x0100)) =
    some (0x00, true, false, true, true) := by decide

theorem test_adc_only_the_fold_carries : seen aAndFlags (ran [0x88] (withAfBc 0x0010 0xFF00)) =
    some (0x00, true, false, true, true) := by decide

theorem test_sub_a_b : seen aAndFlags (ran [0x90] (withAfBc 0x1000 0x0100)) =
    some (0x0F, false, true, true, false) := by decide

theorem test_sbc_a_b : seen aAndFlags (ran [0x98] (withAfBc 0x1010 0x0F00)) =
    some (0x00, true, true, true, false) := by decide

theorem test_cp_a_b : seen aAndFlags (ran [0xB8] (withAfBc 0x3C00 0x4000)) =
    some (0x3C, false, true, false, true) := by decide

theorem test_add_a_imm8 : seen aAndFlags (ran [0xC6, 0xC6] (withAf 0x3A00)) =
    some (0x00, true, false, true, true) := by decide

theorem test_adc_a_imm8 : seen aAndFlags (ran [0xCE, 0x3B] (withAf 0xE110)) =
    some (0x1D, false, false, false, true) := by decide

theorem test_sub_a_imm8 : seen aAndFlags (ran [0xD6, 0x0F] (withAf 0x3E00)) =
    some (0x2F, false, true, true, false) := by decide

theorem test_sbc_a_imm8 : seen aAndFlags (ran [0xDE, 0x3A] (withAf 0x3B10)) =
    some (0x00, true, true, false, false) := by decide

theorem test_cp_a_imm8 : seen aAndFlags (ran [0xFE, 0x3C] (withAf 0x3C00)) =
    some (0x3C, true, true, false, false) := by decide

theorem test_inc_keeps_c : seen (fun t => (t.read8 .b, znhc t)) (ran [0x04] (withAfBc 0x0010 0xFF00)) =
    some (0x00, true, false, true, true) := by decide

theorem test_dec_b : seen (fun t => (t.read8 .b, znhc t)) (ran [0x05] (withAfBc 0 0x0100)) =
    some (0x00, true, true, false, false) := by decide

theorem test_inc_memory : seen (fun t => (t.byteAt 0xC000, znhc t)) (ran [0x34] (withHl 0xC000 0x0F)) =
    some (0x10, false, false, true, false) := by decide

theorem test_dec_memory : seen (fun t => (t.byteAt 0xC000, znhc t)) (ran [0x35] (withHl 0xC000 0x00)) =
    some (0xFF, false, true, true, false) := by decide

theorem test_add_hl_bc : seen (fun t => (t.hl, znhc t)) (ran [0x09] { withAfBc 0x0080 0x0605 with hl := 0x8A23 }) =
    some (0x9028, true, false, true, false) := by decide

theorem test_inc_de : seen (fun t => (t.de, t.af)) (ran [0x13] { withAf 0x00F0 with de := 0x00FF }) =
    some (0x0100, 0x00F0) := by decide

theorem test_dec_sp_wraps : seen (fun t => t.sp) (ran [0x3B] (withSp 0x0000)) = some 0xFFFF := by decide

theorem test_and_a_b : seen aAndFlags (ran [0xA0] (withAfBc 0x5AF0 0x3F00)) =
    some (0x1A, false, false, true, false) := by decide

theorem test_or_a_b : seen aAndFlags (ran [0xB0] (withAfBc 0x5AF0 0x0F00)) =
    some (0x5F, false, false, false, false) := by decide

theorem test_xor_a_b : seen aAndFlags (ran [0xA8] (withAfBc 0xFFF0 0x0F00)) =
    some (0xF0, false, false, false, false) := by decide

theorem test_and_a_imm8 : seen aAndFlags (ran [0xE6, 0x38] (withAf 0x5A00)) =
    some (0x18, false, false, true, false) := by decide

theorem test_or_a_imm8 : seen aAndFlags (ran [0xF6, 0x00] (withAf 0x0000)) =
    some (0x00, true, false, false, false) := by decide

theorem test_xor_a_imm8 : seen aAndFlags (ran [0xEE, 0xFF] (withAf 0xFF00)) =
    some (0x00, true, false, false, false) := by decide

theorem test_cpl_keeps_z : seen aAndFlags (ran [0x2F] (withAf 0xFF00)) =
    some (0x00, false, true, true, false) := by decide

theorem test_rlca : seen aAndFlags (ran [0x07] (withAf 0x8580)) = some (0x0B, false, false, false, true) := by decide

theorem test_rrca : seen aAndFlags (ran [0x0F] (withAf 0x3B00)) = some (0x9D, false, false, false, true) := by decide

theorem test_rla : seen aAndFlags (ran [0x17] (withAf 0x9510)) = some (0x2B, false, false, false, true) := by decide

theorem test_rra : seen aAndFlags (ran [0x1F] (withAf 0x8100)) = some (0x40, false, false, false, true) := by decide

theorem test_rlc_b : seen (fun t => (t.read8 .b, znhc t)) (ran [0xCB, 0x00] (withAfBc 0 0x8500)) =
    some (0x0B, false, false, false, true) := by decide

theorem test_rrc_c : seen (fun t => (t.read8 .c, znhc t)) (ran [0xCB, 0x09] (withAfBc 0 0x0001)) =
    some (0x80, false, false, false, true) := by decide

theorem test_rl_l : seen (fun t => (t.read8 .l, znhc t)) (ran [0xCB, 0x15] { withAf 0 with hl := 0x0080 }) =
    some (0x00, true, false, false, true) := by decide

theorem test_rr_a : seen aAndFlags (ran [0xCB, 0x1F] (withAf 0x0100)) = some (0x00, true, false, false, true) := by decide

theorem test_sla_d : seen (fun t => (t.read8 .d, znhc t)) (ran [0xCB, 0x22] { withAf 0 with de := 0xFF00 }) =
    some (0xFE, false, false, false, true) := by decide

theorem test_sra_a : seen aAndFlags (ran [0xCB, 0x2F] (withAf 0x8A00)) = some (0xC5, false, false, false, false) := by
  decide

theorem test_swap_a : seen aAndFlags (ran [0xCB, 0x37] (withAf 0xF110)) = some (0x1F, false, false, false, false) := by
  decide

theorem test_srl_a : seen aAndFlags (ran [0xCB, 0x3F] (withAf 0xFF00)) = some (0x7F, false, false, false, true) := by
  decide

theorem test_bit_7_h : seen (fun t => (t.hl, znhc t)) (ran [0xCB, 0x7C] { withAf 0x0010 with hl := 0x7F00 }) =
    some (0x7F00, true, false, true, true) := by decide

theorem test_res_0_a : seen (fun t => t.af) (ran [0xCB, 0x87] (withAf 0xFFF0)) = some 0xFEF0 := by decide

theorem test_set_7_memory : seen (fun t => (t.byteAt 0xC000, t.pc)) (ran [0xCB, 0xFE] (withHl 0xC000 0x01)) =
    some (0x81, 0x0102) := by decide

theorem test_jr : seen (fun t => t.pc) (ran [0x18, 0x05] (withAf 0)) = some 0x0107 := by decide

theorem test_jr_backwards_to_itself : seen (fun t => t.pc) (ran [0x18, 0xFE] (withAf 0)) = some 0x0100 := by decide

theorem test_jr_z_taken : seen (fun t => t.pc) (ran [0x28, 0x0A] (withAf 0x0080)) = some 0x010C := by decide

theorem test_jr_z_untaken : seen (fun t => t.pc) (ran [0x28, 0x0A] (withAf 0x0070)) = some 0x0102 := by decide

theorem test_jp : seen (fun t => t.pc) (ran [0xC3, 0x50, 0x01] (withAf 0)) = some 0x0150 := by decide

theorem test_jp_z_taken : seen (fun t => t.pc) (ran [0xCA, 0x00, 0x80] (withAf 0x0080)) = some 0x8000 := by decide

theorem test_jp_c_untaken : seen (fun t => t.pc) (ran [0xDA, 0x00, 0x80] (withAf 0x00E0)) = some 0x0103 := by decide

theorem test_jp_hl : seen (fun t => t.pc) (ran [0xE9] (withHl 0xC200 0x77)) = some 0xC200 := by decide

theorem test_call : seen (fun t => (t.sp, t.byteAt 0xCFFE, t.byteAt 0xCFFF, t.pc))
    (ran [0xCD, 0x00, 0x02] (withSp 0xD000)) = some (0xCFFE, 0x03, 0x01, 0x0200) := by decide

theorem test_call_c_untaken : seen (fun t => (t.sp, t.pc)) (ran [0xDC, 0x00, 0x02] (withSp 0xD000)) =
    some (0xD000, 0x0103) := by decide

theorem test_call_nz_taken : seen (fun t => (t.sp, t.pc)) (ran [0xC4, 0x00, 0x02] (withSp 0xD000)) =
    some (0xCFFE, 0x0200) := by decide

/-- The stack of the return examples: 0x03 0x01 at 0xCFFE. -/
def withReturn : State := ((withSp 0xCFFE).putByte 0xCFFE 0x03).putByte 0xCFFF 0x01

theorem test_ret : seen (fun t => (t.pc, t.sp, t.ime)) (ran [0xC9] withReturn) = some (0x0103, 0xD000, false) := by decide

theorem test_reti : seen (fun t => (t.pc, t.sp, t.ime)) (ran [0xD9] withReturn) = some (0x0103, 0xD000, true) := by decide

theorem test_ret_nz_untaken : seen (fun t => (t.pc, t.sp)) (ran [0xC0] { withReturn with af := 0x0080 }) =
    some (0x0101, 0xCFFE) := by decide

theorem test_ret_nc_taken : seen (fun t => (t.pc, t.sp)) (ran [0xD0] withReturn) = some (0x0103, 0xD000) := by decide

theorem test_rst_28 : seen (fun t => (t.sp, t.byteAt 0xCFFE, t.byteAt 0xCFFF, t.pc))
    (ran [0xEF] { withSp 0xD000 with pc := 0x0150 }) = some (0xCFFE, 0x51, 0x01, 0x0028) := by decide

theorem test_di : seen (fun t => t.ime) (ran [0xF3] { withAf 0 with ime := true }) = some false := by decide

theorem test_ei : seen (fun t => t.ime) (ran [0xFB] (withAf 0)) = some true := by decide

theorem test_push_bc : seen (fun t => (t.sp, t.byteAt 0xCFFE, t.byteAt 0xCFFF))
    (ran [0xC5] { withSp 0xD000 with bc := 0x1234 }) = some (0xCFFE, 0x34, 0x12) := by decide

theorem test_push_wraps : seen (fun t => (t.sp, t.byteAt 0xFFFF, t.byteAt 0x0000))
    (ran [0xE5] { withSp 0x0001 with hl := 0xABCD }) = some (0xFFFF, 0xCD, 0xAB) := by decide

theorem test_pop_af_masks : seen (fun t => (t.af, t.sp))
    (ran [0xF1] (((withSp 0xCFFE).putByte 0xCFFE 0xFF).putByte 0xCFFF 0x12)) = some (0x12F0, 0xD000) := by decide

theorem test_pop_de : seen (fun t => (t.de, t.sp)) (ran [0xD1] withReturn) = some (0x0103, 0xD000) := by decide

theorem test_daa_after_add : seen aAndFlags (ran [0x27] (withAf 0x4520)) = some (0x4B, false, false, false, false) := by
  decide

theorem test_daa_after_subtract : seen aAndFlags (ran [0x27] (withAf 0xEE70)) = some (0x88, false, true, false, true) := by
  decide

theorem test_nop : seen (fun t => (t.pc, t.af)) (ran [0x00] (withAf 0x12F0)) = some (0x0101, 0x12F0) := by decide

theorem test_scf : seen (fun t => t.af) (ran [0x37] (withAf 0x00E0)) = some 0x0090 := by decide

theorem test_ccf : seen (fun t => t.af) (ran [0x3F] (withAf 0x00F0)) = some 0x0080 := by decide

theorem test_halt : seen (fun t => (t.halted, t.pc)) (ran [0x76] (withAf 0)) = some (true, 0x0101) := by decide

theorem test_halted_machine_idles : seen id (step { withAf 0 with halted := true }) =
    some { withAf 0 with halted := true } := by decide

theorem test_prefix_row_acts_as_swap : seen aAndFlags (exec (.prefixCb 0x37) (withAf 0xF110)) =
    some (0x1F, false, false, false, false) := by decide

theorem test_stop_faults : raised (ran [0x10] (withAf 0)) = some (.decodeFault 0x10 0x0100) := by decide

theorem test_illegal_byte_faults : raised (ran [0xD3] (withAf 0)) = some (.decodeFault 0xD3 0x0100) := by decide

theorem test_illegal_byte_before_echo_ram : raised (ran [0xFD] { withAf 0 with pc := 0xDFFF }) =
    some (.decodeFault 0xFD 0xDFFF) := by decide

theorem test_fetch_faults_at_operand : raised (ran [0xC3, 0x00] { withAf 0 with pc := 0xDFFE }) =
    some (.busFault 0xE000 .fetch) := by decide

theorem test_push_faults_on_high_byte : raised (ran [0xC5] (withSp 0xE001)) = some (.busFault 0xE000 .write) := by decide

theorem test_load_faults_in_the_gap : raised (ran [0x7E] { withAf 0 with hl := 0xFEA0 }) =
    some (.busFault 0xFEA0 .read) := by decide

theorem test_faulted_machine_takes_no_step :
    raised (step { withAf 0 with fault := some (.decodeFault 0x10 0x0100) }) = some (.decodeFault 0x10 0x0100) := by decide

/-- The very next step runs the instruction of the word, from reset. -/
theorem test_with_fetch_word : seen id (step (State.reset.withFetchWord 16 0x053E)) =
    some { State.reset.withFetchWord 16 0x053E with af := 0x0500, pc := 0x0002 } := by decide

/-! ## Ticks and the host's port -/

/-- A choice of FAULT_STATE for the tests. -/
def keepState (_ : FaultRecord) (s : State) : State := s

/-- GBE's spot check: 2 cycles untaken, 3 taken (70_reset_and_hazards.md R351). -/
theorem test_tick_jr_z_counts :
    (match tick (TickParams.standard keepState) (readyAt [0x28, 0x0A] (withAf 0x0000)) with
      | .next t n => some (t.pc, n)
      | _ => none) = some (0x0102, 2) ∧
    (match tick (TickParams.standard keepState) (readyAt [0x28, 0x0A] (withAf 0x0080)) with
      | .next t n => some (t.pc, n)
      | _ => none) = some (0x010C, 3) := by decide

theorem test_tick_records_the_fault :
    (match tick (TickParams.standard keepState) (readyAt [0x10] (withAf 0)) with
      | .faulted t => t.fault
      | _ => none) = some (.decodeFault 0x10 0x0100) := by decide

theorem test_tick_of_a_halted_machine :
    tick (TickParams.standard keepState) { withAf 0 with halted := true } = .idle { withAf 0 with halted := true } 1 := by
  decide

theorem test_tick_with_wake_up_runs :
    (match tick { TickParams.standard keepState with haltWake := true } { withAf 0 with halted := true } with
      | .next t _ => some (t.halted, t.pc)
      | _ => none) = some (false, 0x0101) := by decide

theorem test_host_write_of_f_is_masked :
    (match hostAct keepState (.write8 .f 0xFF) State.reset with
      | .answered _ t => some t.af
      | .faulted _ => none) = some 0x00F0 := by decide

theorem test_host_access_to_echo_ram_ends_the_run :
    (match hostAct keepState (.readByte 0xE000) State.reset with
      | .answered _ _ => none
      | .faulted t => some (t.fault, tick (TickParams.standard keepState) t)) =
    some (some (.busFault 0xE000 .read), .noStep) := by decide

theorem test_second_fault_keeps_the_first_record :
    (match hostAct keepState (.writeWord 0xDFFF 0x1234) { State.reset with fault := some (.decodeFault 0x10 0x0000) } with
      | .answered _ _ => none
      | .faulted t => t.fault) = some (.decodeFault 0x10 0x0000) := by decide

theorem test_load_image_keeps_the_canonical_form :
    (match loadImage keepState [(0x0101, 0x05), (0x0100, 0x3E), (0x0102, 0x00)] State.reset with
      | .answered _ t => some t.mem
      | .faulted _ => none) = some [(0x0100, 0x3E), (0x0101, 0x05)] := by decide

theorem test_load_image_into_the_gap_ends_the_run :
    (match loadImage keepState [(0x0100, 0x3E), (0xFEA0, 0x01), (0x0101, 0x05)] State.reset with
      | .answered _ _ => none
      | .faulted t => some (t.fault, t.mem)) = some (some (.busFault 0xFEA0 .write), [(0x0100, 0x3E)]) := by decide

theorem test_store_of_zero_unlists : Memory.set [(0x0100, 0x3E), (0x0101, 0x05)] 0x0100 0x00 = [(0x0101, 0x05)] := by decide

theorem test_ill_formed_memory_is_refused :
    ¬ Memory.wf [(0x0101, 0x05), (0x0100, 0x3E)] ∧ ¬ Memory.wf [(0x0100, 0x00)] ∧ ¬ Memory.wf [(0xE000, 0x01)] := by decide

/-! ## Witnesses: for each statement with hypotheses, states and operands that meet them, each clause at its boundaries -/

/-- The power-on machine with HL. -/
def atHl (hl : Word) : State := { State.reset with hl := hl }

/-- The power-on machine with SP. -/
def atSp (sp : Word) : State := { State.reset with sp := sp }

/-- The edges of the two ranges without storage, from both sides (20_memory.md R61). -/
theorem witness_storage_edges :
    isStorage 0x0000 = true ∧ isStorage 0xDFFF = true ∧ isStorage 0xE000 = false ∧ isStorage 0xFDFF = false ∧
    isStorage 0xFE00 = true ∧ isStorage 0xFE9F = true ∧ isStorage 0xFEA0 = false ∧ isStorage 0xFEFF = false ∧
    isStorage 0xFF00 = true ∧ isStorage 0xFFFF = true := by decide

theorem witness_LoadRegisterFromRegisterOrImmediate : R8.isRegister .b = true ∧ R8.isRegister .a = true := by decide

theorem witness_LoadRegisterFromMemoryAtHl :
    R8.isRegister .h = true ∧ isStorage ((atHl 0xDFFF).read16 .hl) = true ∧
    isStorage ((atHl 0xE000).read16 .hl) = false := by decide

theorem witness_StoreByteAtHl :
    R8.isRegister .l = true ∧ isStorage ((atHl 0xFE00).read16 .hl) = true ∧
    isStorage ((atHl 0xFDFF).read16 .hl) = false := by decide

theorem witness_IndirectLoadAndStoreThroughPair :
    isStorage (addrOfR16Mem .hlInc (atHl 0xFFFF)) = true ∧ isStorage (addrOfR16Mem .hlDec (atHl 0x0000)) = true ∧
    isStorage (addrOfR16Mem .hlDec (atHl 0xE000)) = false ∧
    isStorage (addrOfR16Mem .bc { State.reset with bc := 0xFEFF }) = false ∧
    isStorage (addrOfR16Mem .de { State.reset with de := 0xFF00 }) = true := by decide

theorem witness_StoreSpAbsolute :
    (isStorage 0xFFFF = true ∧ isStorage (0xFFFF + 1) = true) ∧ isStorage 0xFEA0 = false ∧
    (isStorage 0xDFFF = true ∧ isStorage (0xDFFF + 1) = false) := by decide

theorem witness_AbsoluteLoadAndStoreOfA : isStorage 0xFE9F = true ∧ isStorage 0xFEA0 = false := by decide

/-- An R8 operand that is a register, one that is storage at HL, and one that faults: the hypotheses of the ALU, CB rotate,
BIT, RES and SET statements. -/
theorem witness_operands :
    operandReachable .a (atHl 0xE000) ∧ operandReachable .hlMem (atHl 0xDFFF) ∧
    (R8.hlMem = .hlMem ∧ isStorage ((atHl 0xE000).read16 .hl) = false) := by
  exact ⟨fun h => (by cases h), fun _ => (by decide), by decide⟩

theorem witness_AddAndAdcAllForms : operandReachable .hlMem (atHl 0xFFFF) := fun _ => by decide

theorem witness_SubAndSbcAllForms : operandReachable .hlMem (atHl 0x0000) := fun _ => by decide

theorem witness_CompareWritesFlagsOnly : operandReachable .b State.reset := fun h => by cases h

theorem witness_IncrementAndDecrementRegister : R8.isRegister .e = true := by decide

theorem witness_IncrementAndDecrementMemory :
    isStorage ((atHl 0xFE9F).read16 .hl) = true ∧ isStorage ((atHl 0xFEA0).read16 .hl) = false := by decide

theorem witness_LogicAllForms : operandReachable .hlMem (atHl 0xC000) := fun _ => by decide

theorem witness_CbRotatesAndShifts : operandReachable .hlMem (atHl 0xDFFF) := fun _ => by decide

theorem witness_BitTestWritesFlagsOnly : operandReachable .hlMem (atHl 0xFE00) := fun _ => by decide

theorem witness_ResetAndSetBit : operandReachable .hlMem (atHl 0xFF00) := fun _ => by decide

/-- Each condition holds in one state and fails in another: the hypotheses of the conditional jumps, calls and returns. -/
theorem witness_conditions :
    condMeans .nz (withAf 0x0000) ∧ ¬ condMeans .nz (withAf 0x0080) ∧ condMeans .z (withAf 0x0080) ∧
    ¬ condMeans .z (withAf 0x0000) ∧ condMeans .nc (withAf 0x00E0) ∧ ¬ condMeans .nc (withAf 0x0010) ∧
    condMeans .c (withAf 0x0010) ∧ ¬ condMeans .c (withAf 0x00E0) := by
  unfold condMeans; decide

theorem witness_RelativeJumps : condMeans .z (withAf 0x0080) ∧ ¬ condMeans .z (withAf 0x0070) := by
  unfold condMeans; decide

theorem witness_AbsoluteJumps : condMeans .c (withAf 0x0010) ∧ ¬ condMeans .c (withAf 0x00E0) := by
  unfold condMeans; decide

/-- A push at SP = 0, where the spec says it reaches 0xFFFE and 0xFFFF, one that faults at its low byte, and one that
faults at its high byte only (44_control_flow.md R255). -/
theorem witness_CallsPushTheReturnAddress :
    (condMeans .nz (atSp 0x0000) ∧ canPush (atSp 0x0000)) ∧
    isStorage ((atSp 0xE002).read16 .sp - 2) = false ∧
    (isStorage ((atSp 0xE001).read16 .sp - 2) = true ∧ isStorage ((atSp 0xE001).read16 .sp - 1) = false) ∧
    ¬ condMeans .z (atSp 0x0000) := by
  unfold condMeans canPush; decide

theorem witness_RestartCallsItsVector : canPush (atSp 0x0000) := by unfold canPush; decide

theorem witness_ReturnsPopThePc :
    (condMeans .nc (atSp 0xFFFF) ∧ canPop (atSp 0xFFFF)) ∧ isStorage ((atSp 0xFEFF).read16 .sp) = false ∧
    (isStorage ((atSp 0xDFFF).read16 .sp) = true ∧ isStorage ((atSp 0xDFFF).read16 .sp + 1) = false) ∧
    ¬ condMeans .c (atSp 0xFFFF) := by
  unfold condMeans canPop; decide

theorem witness_CallThenReturnComesBack : canPush (atSp 0xFE02) := by unfold canPush; decide

theorem witness_PushStoresThePair :
    canPush { atSp 0xD000 with af := 0x12F0 } ∧ R16Stk.af = .af ∧ lowNibbleClear { atSp 0xD000 with af := 0x12F0 } := by
  unfold canPush lowNibbleClear; decide

theorem witness_PopLoadsThePair : canPop (atSp 0xCFFE) ∧ R16Stk.bc ≠ .af ∧ R16Stk.af = .af := by
  unfold canPop; decide

theorem witness_PushThenPopCopiesThePair : canPush (atSp 0xE000) := by unfold canPush; decide

theorem witness_DecimalAdjust :
    ¬ was (withAf 0x9A30) .n ∧ was (withAf 0x9A70) .n := by
  unfold was; decide

theorem witness_HaltIsForEver :
    ({ State.reset with halted := true } : State).fault = none ∧ ({ State.reset with halted := true } : State).halted = true := by
  decide

theorem witness_BytesThatAreNoInstruction :
    running ((withAf 0).putByte 0x0100 0xFD) ∧ isStorage (((withAf 0).putByte 0x0100 0xFD).read16 .pc) = true ∧
    ((withAf 0).putByte 0x0100 0xFD).byteAt (((withAf 0).putByte 0x0100 0xFD).read16 .pc) = 0xFD := by
  unfold running; decide

theorem witness_PrefixRunsTheSelectedInstruction : operandReachable (R8.ofBits (fieldB 0xC6)) (atHl 0xFFFF) :=
  fun _ => by decide

theorem witness_DaaMakesAdcAndSbcDecimal : 99 < 100 ∧ 99 < 100 ∧ (withAf 0x9910).read8 .a = bcd 99 := by decide

/-- Two states that differ in N and H and agree otherwise, and an instruction that is neither `DAA` nor `PUSH AF`. -/
theorem witness_OnlyDaaReadsNAndH :
    Instr.pushR16stk .bc ≠ .daa ∧ Instr.pushR16stk .bc ≠ .pushR16stk .af ∧
    agreeButNH (withAf 0x1290) (withAf 0x12F0) := by
  refine ⟨by decide, by decide, rfl, fun i h5 h6 => ?_⟩
  by_cases lt : i < 16
  · interval_cases i <;> first | rfl | exact absurd rfl h5 | exact absurd rfl h6
  · rw [BitVec.getLsbD_of_ge _ _ (by omega), BitVec.getLsbD_of_ge _ _ (by omega)]

theorem witness_ByteAccesses :
    ¬ ((0xE000 ≤ (0xDFFF : Word).toNat ∧ (0xDFFF : Word).toNat ≤ 0xFDFF) ∨
      (0xFEA0 ≤ (0xDFFF : Word).toNat ∧ (0xDFFF : Word).toNat ≤ 0xFEFF)) ∧
    ((0xE000 ≤ (0xFDFF : Word).toNat ∧ (0xFDFF : Word).toNat ≤ 0xFDFF) ∨
      (0xFEA0 ≤ (0xFDFF : Word).toNat ∧ (0xFDFF : Word).toNat ≤ 0xFEFF)) := by decide

theorem witness_WordAccesses :
    (isStorage 0xFFFF = true ∧ isStorage (0xFFFF + 1) = true) ∧ isStorage 0xFDFF = false ∧
    (isStorage 0xDFFF = true ∧ isStorage (0xDFFF + 1) = false) := by decide

theorem witness_FlagRegister :
    lowNibbleClear (withSp 0xD000) ∧ canPush (withSp 0xD000) ∧ canPop (withSp 0xD000) ∧ Sys2Proof.Flag.z ≠ Sys2Proof.Flag.c := by
  unfold lowNibbleClear canPush canPop; decide

theorem witness_PairsAndHalves : Reg8.f ≠ .a := by decide

theorem witness_OnlyFourInstructionsWriteControlState :
    seen (fun t => t.ime) (exec .ei State.reset) = some true ∧
    seen (fun t => t.halted) (exec .halt State.reset) = some true := by decide

theorem witness_OnlyTransfersWritePc : seen (fun t => t.pc) (exec (.jpA16 0x0150) State.reset) = some 0x0150 := by decide

theorem witness_NoOtherFaults :
    noInstruction .nop = false ∧ accessesData .nop = false ∧
    raised (exec .stop State.reset) = some (.decodeFault 0x10 0xFFFF) ∧
    raised (exec .incHl (atHl 0xE000)) = some (.busFault 0xE000 .read) := by decide

/-- A three-byte instruction whose bytes run to the top of memory and on to address 0. -/
theorem witness_StepRunsTheDecodedInstruction :
    running (readyAt [0xC3, 0x50, 0x01] { State.reset with pc := 0xFFFE }) ∧
    decode (windowAtPc (readyAt [0xC3, 0x50, 0x01] { State.reset with pc := 0xFFFE })) = .ok (.jpA16 0x0150, []) ∧
    ∀ k, k < 3 - [].length (α := Byte) →
      isStorage ((readyAt [0xC3, 0x50, 0x01] { State.reset with pc := 0xFFFE }).read16 .pc + BitVec.ofNat 16 k) = true := by
  refine ⟨⟨rfl, rfl⟩, rfl, ?_⟩
  decide

/-- The third byte of a three-byte instruction lies in echo RAM. -/
theorem witness_FetchFaultsInOrder :
    running (readyAt [0xC3, 0x50] { State.reset with pc := 0xDFFE }) ∧
    decode (windowAtPc (readyAt [0xC3, 0x50] { State.reset with pc := 0xDFFE })) = .ok (.jpA16 0x0050, []) ∧
    (∀ j, j < 2 →
      isStorage ((readyAt [0xC3, 0x50] { State.reset with pc := 0xDFFE }).read16 .pc + BitVec.ofNat 16 j) = true) ∧
    isStorage ((readyAt [0xC3, 0x50] { State.reset with pc := 0xDFFE }).read16 .pc + BitVec.ofNat 16 2) = false := by
  refine ⟨⟨rfl, rfl⟩, rfl, ?_, ?_⟩ <;> decide

/-- A machine whose fault is recorded. -/
theorem witness_TickRefinesStep :
    ({ State.reset with fault := some (.decodeFault 0xD3 0x0100) } : State).fault = some (.decodeFault 0xD3 0x0100) := rfl

theorem witness_UntakenConditionalsAreCheaper :
    condMeans .z (withAf 0x0080) ∧ ¬ condMeans .z (withAf 0x0000) ∧ ∀ cc e8, Instr.nop ≠ .jrCcE8 cc e8 := by
  refine ⟨by unfold condMeans; decide, by unfold condMeans; decide, fun _ _ h => by cases h⟩

theorem witness_PowerOnState : decoded [0x76] = some (.halt, 0) := by decide

/-- A lawful state, and a step from it that answers a next state. -/
theorem witness_EveryStepKeepsTheInvariant :
    (readyAt [0xF1] (withSp 0xCFFE)).Inv ∧ seen (fun t => t.sp) (step (readyAt [0xF1] (withSp 0xCFFE))) = some 0xD000 :=
  ⟨⟨by unfold lowNibbleClear; decide, by decide, rfl⟩, by decide⟩

theorem witness_HostKeepsTheInvariant :
    ((withSp 0xCFFE).Inv ∧
      (match hostAct keepState (.writeWord 0xC000 0x1200) (withSp 0xCFFE) with
        | .answered _ t => some t.mem
        | .faulted _ => none) = some [(0xC001, 0x12)]) ∧
    isStorage 0xFDFF = false ∧ isStorage 0xFEA0 = false ∧
    ({ State.reset with fault := some (.busFault 0xE000 .fetch) } : State).fault = some (.busFault 0xE000 .fetch) :=
  ⟨⟨⟨by unfold lowNibbleClear; decide, by decide, rfl⟩, by decide⟩, by decide, by decide, rfl⟩

theorem witness_DecodeOfEncodeIsTheInstruction : (Instr.ldR8R8 .b .a).wf = true := by decide

theorem witness_EncodeOfDecodeIsTheBytes : decoded [0xCB, 0xFF, 0x00] = some (.setNR8 7 .a, 1) := by decide

end Sys2Proof.Tests
end

section
/-! PROOFS. The state family (10_state.md): which updates keep the machine's invariant, what a push and a pop that have
room do, and the six statements of the family. -/

namespace Sys2Proof.Machine

/-! ## F[3:0] -/

theorem and_lowNibble_of_kept {s t : State} (kept : keepsLowNibble s t) : t.af &&& 0x000F = s.af &&& 0x000F := by
  have mask : ∀ i : Fin 16, (0x000F : Word).getLsbD i = decide (i.1 < 4) := by decide
  refine BitVec.eq_of_getLsbD_eq fun i lt => ?_
  rw [BitVec.getLsbD_and, BitVec.getLsbD_and, mask ⟨i, lt⟩]
  by_cases low : i < 4
  · rw [kept i low]
  · rw [decide_eq_false low, Bool.and_false, Bool.and_false]

/-- A write of AF clears F[3:0], whatever was there (10_state.md R26). -/
theorem lowNibbleClear_write16_af (s : State) (w : Word) : lowNibbleClear (s.write16 .af w) :=
  (BitVec.and_assoc w 0xFFF0 0x000F).trans BitVec.and_zero

/-- Where F[3:0] is zero, a read of F gives zero there (10_state.md R26). -/
theorem read8_f_and_lowNibble {s : State} (clear : lowNibbleClear s) : s.read8 .f &&& 0x0F = 0 :=
  calc
    lo s.af &&& lo 0x000F = lo (s.af &&& 0x000F) := BitVec.extractLsb'_and.symm
    _ = lo 0 := congrArg lo clear

/-- A byte whose low nibble is zero is the sum of its upper four bits. -/
theorem toNat_of_lowNibble_zero (b : Byte) (clear : b &&& 0x0F = 0) :
    b.toNat = 128 * (b.getLsbD 7).toNat + 64 * (b.getLsbD 6).toNat + 32 * (b.getLsbD 5).toNat +
      16 * (b.getLsbD 4).toNat := by
  revert b; decide

/-- F is {Z, N, H, C, 0, 0, 0, 0} where F[3:0] is zero (10_state.md R25). -/
theorem toNat_read8_f {s : State} (clear : lowNibbleClear s) :
    (s.read8 .f).toNat = 128 * (s.readFlag .z).toNat + 64 * (s.readFlag .n).toNat + 32 * (s.readFlag .h).toNat +
      16 * (s.readFlag .c).toNat := by
  simp only [readFlag_eq_read8]
  exact toNat_of_lowNibble_zero _ (read8_f_and_lowNibble clear)

/-! ## Pushes and pops that have room (20_memory.md R66, R67, R71) -/

/-- A push with room stores its word below SP and changes nothing else. -/
theorem push_pushed {s : State} (room : canPush s) (w : Word) : ∃ t, push w s = .ok t ∧ pushed w [] s t := by
  obtain ⟨low, high⟩ := room
  refine ⟨_, push_ok low high w, by simp, by simp, by simp, ?_⟩
  exact frame_putByte (frame_putByte (frame_write_sp (frame_refl s) (by simp) _) (by simp) _) (by simp) _

theorem exec_pushR16stk {s : State} (room : canPush s) (p : R16Stk) :
    ∃ t, exec (.pushR16stk p) s = .next t ∧ pushed (s.read16 (slotOfR16Stk p)) [] s t := by
  obtain ⟨t, ran, effect⟩ := push_pushed room (s.read16 (slotOfR16Stk p))
  exact ⟨t, congrArg done ran, effect⟩

/-- A pop with room gives the word on top of the stack and moves SP past it. -/
theorem pop_stackTop {s : State} (room : canPop s) : pop s = .ok (stackTop s, s.write16 .sp (s.read16 .sp + 2)) :=
  pop_ok room.1 room.2

theorem exec_popR16stk {s : State} (room : canPop s) (p : R16Stk) :
    exec (.popR16stk p) s =
      .next ((s.write16 .sp (s.read16 .sp + 2)).write16 (slotOfR16Stk p) (stackTop s)) := by
  simp only [exec, execPopR16stk, pop_stackTop room, andThen_ok]

/-! ## The invariant -/

/-- An update that keeps F[3:0] and the fault record, and memory canonical, keeps the invariant. -/
theorem State.Inv.of_kept {s t : State} (inv : s.Inv) (nibble : keepsLowNibble s t) (memory : Memory.wf t.mem)
    (fault : t.fault = s.fault) : t.Inv :=
  ⟨(and_lowNibble_of_kept nibble).trans inv.nibble, memory, fault.trans inv.running⟩

theorem State.Inv.write8 {s : State} (inv : s.Inv) {r : Reg8} (ne : r ≠ .f) (v : Byte) : (s.write8 r v).Inv :=
  inv.of_kept (fun i low => lowBit_write8 s r v i ne low) (mem_write8 s r v ▸ inv.memory) (fault_write8 s r v)

theorem State.Inv.write16 {s : State} (inv : s.Inv) (r : Reg16) (w : Word) : (s.write16 r w).Inv := by
  have memory : Memory.wf (s.write16 r w).mem := mem_write16 s r w ▸ inv.memory
  by_cases af : r = .af
  · subst af
    exact ⟨lowNibbleClear_write16_af s w, memory, inv.running⟩
  · exact inv.of_kept (fun _ _ => by rw [af_write16 s r w af]) memory (fault_write16 s r w)

theorem State.Inv.writeFlag {s : State} (inv : s.Inv) (f : Flag) (v : Bool) : (s.writeFlag f v).Inv :=
  inv.of_kept (fun i low => lowBit_writeFlag s f v i low) inv.memory rfl

theorem State.Inv.putByte {s : State} (inv : s.Inv) {a : Word} (stored : isStorage a = true) (v : Byte) :
    (s.putByte a v).Inv :=
  inv.of_kept (fun _ _ => rfl) (putByte_wf inv.memory stored v) rfl

theorem State.Inv.writeIme {s : State} (inv : s.Inv) (v : Bool) : (s.writeIme v).Inv :=
  ⟨inv.nibble, inv.memory, inv.running⟩

theorem State.Inv.writeHalted {s : State} (inv : s.Inv) (v : Bool) : (s.writeHalted v).Inv :=
  ⟨inv.nibble, inv.memory, inv.running⟩

/-- Every update an instruction may use keeps the invariant. -/
theorem inv_keptByUpdates (i : Instr) : KeptByUpdates i State.Inv where
  write8 _ _ v ne inv := inv.write8 ne v
  write16 _ r w _ inv := inv.write16 r w
  writeFlag _ f v inv := inv.writeFlag f v
  putByte _ _ v stored inv := inv.putByte stored v
  writePc _ _ w inv := inv.write16 .pc w
  writeIme _ _ v inv := inv.writeIme v
  writeHalted _ _ v inv := inv.writeHalted v

/-! ## PC -/

/-- The updates of an instruction that is no control transfer leave PC at any value `pc` it had. -/
theorem pc_keptByUpdates {i : Instr} (other : isTransfer i = false) (pc : Word) :
    KeptByUpdates i (fun s => s.read16 .pc = pc) where
  write8 _ _ _ _ kept := (read16_pc_write8 _ _ _).trans kept
  write16 _ _ _ ne kept := by rw [read16_write16, if_neg (Ne.symm ne)]; exact kept
  writeFlag _ _ _ kept := kept
  putByte _ _ _ _ kept := kept
  writePc transfer := by rw [other] at transfer; cases transfer
  writeIme _ _ _ kept := kept
  writeHalted _ _ _ kept := kept

/-- The instructions that `isTransfer` tells are the forms 10_state.md R38 lists. -/
theorem isTransfer_forms {i : Instr} (transfer : isTransfer i = true) :
    (∃ e8, i = .jrE8 e8) ∨ (∃ cc e8, i = .jrCcE8 cc e8) ∨ (∃ a16, i = .jpA16 a16) ∨
    (∃ cc a16, i = .jpCcA16 cc a16) ∨ i = .jpHl ∨ (∃ a16, i = .callA16 a16) ∨
    (∃ cc a16, i = .callCcA16 cc a16) ∨ i = .ret ∨ i = .reti ∨ (∃ cc, i = .retCc cc) ∨ (∃ n, i = .rstVec n) := by
  cases i with
  | jrE8 | jrCcE8 | jpA16 | jpCcA16 | jpHl | callA16 | callCcA16 | ret | reti | retCc | rstVec => simp
  | _ => cases transfer

/-! ## The statements -/

/-- Settles O55: a completed step is idle or an execution from a state that differs in PC only, and every update that an
execution uses keeps the invariant. -/
theorem everyStepKeepsTheInvariant : Obligations.EveryStepKeepsTheInvariant := by
  intro s t inv stepped
  obtain ⟨-, ⟨-, rfl⟩ | ⟨-, i, pc, -, ran⟩⟩ := step_cases stepped
  · exact inv
  · exact exec_keeps (inv_keptByUpdates i) (inv.write16 .pc pc) ran

/-- Settles O46: the layout of F from the invariant's zero nibble, the masked writes from the laws of AF, and a flag write
bit by bit. -/
theorem flagRegister : Obligations.FlagRegister := by
  intro s f g v b w
  refine ⟨toNat_read8_f, fun clear => ⟨clear, fun room => ?_⟩, fun room => ?_, ?_, rfl, readFlag_writeFlag_self s f v,
    readFlag_writeFlag_ne s f g v, read8_writeFlag s f v .a (by decide), lowBit_writeFlag s f v⟩
  · obtain ⟨t, ran, sp, lowByte, -, -⟩ := exec_pushR16stk room .af
    exact ⟨t, ran, by rw [sp, lowByte]; exact read8_f_and_lowNibble clear⟩
  · exact ⟨_, exec_popR16stk room .af, (read8_write16_af _ _ .f).trans (if_neg (by decide))⟩
  · rw [read8_write8, if_pos rfl, if_pos rfl]

/-- Settles O48: an instruction that is no control transfer keeps PC through all its updates, so one that changes PC is a
transfer. -/
theorem onlyTransfersWritePc : Obligations.OnlyTransfersWritePc := by
  intro i s t ran moved
  cases kind : isTransfer i with
  | true => exact isTransfer_forms kind
  | false => exact absurd (exec_keeps (pc_keptByUpdates kind (s.read16 .pc)) rfl ran) moved

/-- Settles O45, from the laws of the register file. -/
theorem pairsAndHalves : Obligations.PairsAndHalves := by
  intro s r r' v w
  refine ⟨read16_af s, read16_bc s, read16_de s, read16_hl s, ?written, read8_write8_ne s r r' v, ?a, ?f, rfl, rfl, rfl,
    rfl, rfl, rfl⟩
  case written => rw [read8_write8, if_pos rfl]
  case a => rw [read8_write16_af, if_pos rfl]
  case f => rw [read8_write16_af, if_neg (by decide), if_pos rfl]

/-- Settles O57: the empty memory is canonical, and F and the fault record are read off the reset values. -/
theorem powerOnMeetsTheInvariant : Obligations.PowerOnMeetsTheInvariant :=
  ⟨show State.reset.af &&& 0x000F = 0 from rfl, Memory.wf_nil, rfl⟩

/-- Settles O60: each selector value is in its table's definition, and each word is decoded by evaluating `decode`. -/
theorem anchorWordsDecodeRight : Obligations.AnchorWordsDecodeRight := by
  refine ⟨rfl, fun s => ⟨rfl, rfl⟩, rfl, rfl, rfl, fun s => ⟨rfl, rfl⟩, rfl, rfl, rfl, fun s => rfl, ?_⟩
  and_intros <;> rfl

end Sys2Proof.Machine
end

section
/-! PROOFS. The memory family (20_memory.md): the segment table as one range of addresses per segment, what a stored
byte and a stored word read back as, and the four statements of the family. -/

namespace Sys2Proof.Machine

/-! ## The segment table (20_memory.md R61) -/

/-- The first address of a segment. -/
def Segment.first : Segment → Nat
  | .romBank0 => 0x0000
  | .romSwitchable => 0x4000
  | .vram => 0x8000
  | .externalRam => 0xA000
  | .workRam0 => 0xC000
  | .workRamSwitchable => 0xD000
  | .echoRam => 0xE000
  | .oam => 0xFE00
  | .unmapped => 0xFEA0
  | .io => 0xFF00
  | .highRam => 0xFF80
  | .ie => 0xFFFF

/-- The last address of a segment. -/
def Segment.last : Segment → Nat
  | .romBank0 => 0x3FFF
  | .romSwitchable => 0x7FFF
  | .vram => 0x9FFF
  | .externalRam => 0xBFFF
  | .workRam0 => 0xCFFF
  | .workRamSwitchable => 0xDFFF
  | .echoRam => 0xFDFF
  | .oam => 0xFE9F
  | .unmapped => 0xFEFF
  | .io => 0xFF7F
  | .highRam => 0xFFFE
  | .ie => 0xFFFF

/-- An address is in a segment exactly when it is in the segment's range: each test of the table that fails bounds the
address from below, and the one that holds bounds it from above. -/
theorem segmentOf_eq_iff {addr : Word} {g : Segment} :
    segmentOf addr = g ↔ g.first ≤ addr.toNat ∧ addr.toNat ≤ g.last := by
  have := addr.isLt
  cases g
  all_goals
    simp only [segmentOf, ite_eq_iff, reduceCtorEq, and_true, and_false, or_false, false_or, Segment.first,
      Segment.last]
    omega

/-! ## Stored bytes and words (20_memory.md R65, R67) -/

theorem byteAt_putByte_self (s : State) (a : Word) (v : Byte) : (s.putByte a v).byteAt a = v := by
  rw [byteAt_putByte, if_pos rfl]

theorem frame_putByte_self (s : State) (a : Word) (v : Byte) : frame [] [] [a] s (s.putByte a v) :=
  frame_putByte (frame_refl s) (List.mem_singleton_self a) v

/-- The two bytes of a word access are never the same byte. -/
theorem ne_add_one (a : Word) : a ≠ a + 1 := by bv_omega

/-- A word written where there is storage for both its bytes stores the two and changes nothing else. -/
theorem writeWord_stores {a : Word} (low : isStorage a = true) (high : isStorage (a + 1) = true) (w : Word)
    (s : State) :
    ∃ t, writeWord a w s = .ok t ∧ t.byteAt a = lo w ∧ t.byteAt (a + 1) = hi w ∧
      frame [] [] [a, a + 1] s t := by
  refine ⟨_, writeWord_ok low high w s, ?lowByte, byteAt_putByte_self _ _ _, ?_⟩
  case lowByte => rw [byteAt_putByte, if_neg (ne_add_one a), byteAt_putByte_self]
  exact frame_putByte (frame_putByte (frame_refl s) (by simp) _) (by simp) _

/-- A written word reads back: its bytes combine to it again. -/
theorem readWord_of_writeWord {a w : Word} {s t : State} (low : isStorage a = true) (high : isStorage (a + 1) = true)
    (written : writeWord a w s = .ok t) : readWord a t = .ok w := by
  obtain ⟨t', written', lowByte, highByte, -⟩ := writeWord_stores low high w s
  obtain rfl : t' = t := Except.ok.inj (written'.symm.trans written)
  rw [readWord_ok low high, lowByte, highByte, combine_hi_lo]

/-! ## The statements -/

/-- Settles O42: the two ranges are the addresses without storage, and there a byte access raises its fault. -/
theorem byteAccesses : Obligations.ByteAccesses := by
  intro addr v kind s faulting ranges
  have gap : faulting ↔ isStorage addr = false := ranges.trans isStorage_eq_false.symm
  have stored : ¬ faulting ↔ isStorage addr = true := by rw [gap, Bool.not_eq_false]
  refine ⟨fun ok => readByte_ok (stored.1 ok) kind s, fun bad => ⟨_, readByte_error (gap.1 bad) kind s, rfl⟩,
    fun ok => ⟨_, writeByte_ok (stored.1 ok) v s, byteAt_putByte_self s addr v, frame_putByte_self s addr v⟩,
    fun bad => ⟨_, writeByte_error (gap.1 bad) v s, rfl⟩⟩

/-- Settles O43: both bytes in storage, the first outside, and only the second outside, each by the law of the bus. -/
theorem wordAccesses : Obligations.WordAccesses := by
  intro addr v s
  refine ⟨fun low high => ⟨readWord_ok low high s, writeWord_stores low high v s⟩, fun low => ?first,
    fun low high => ?second⟩
  case first => exact ⟨⟨_, readWord_error_low low s, rfl⟩, _, writeWord_error_low low v s, rfl, rfl⟩
  case second =>
    exact ⟨⟨_, readWord_error_high low high s, rfl⟩, _, writeWord_error_high low high v s, rfl,
      byteAt_putByte_self s addr (lo v), frame_putByte_self s addr (lo v)⟩

/-- Settles O44: a word access answers only where both bytes are storage, and there a written word reads back. -/
theorem wordRoundTrip : Obligations.WordRoundTrip := by
  intro addr v s
  constructor
  · constructor
    · rintro ⟨low, high⟩
      have written := writeWord_ok low high v s
      exact ⟨_, written, readWord_of_writeWord low high written⟩
    · rintro ⟨t, written, -⟩
      obtain ⟨low, high, -⟩ := writeWord_eq_ok.1 written
      exact ⟨low, high⟩
  · constructor
    · rintro ⟨low, high⟩
      exact ⟨_, readWord_ok low high s⟩
    · rintro ⟨w, answered⟩
      obtain ⟨low, high, -⟩ := readWord_eq_ok.1 answered
      exact ⟨low, high⟩

/-- Settles O41: both sides are conditions on the address as a number, the segment's range on the left, quotients and
remainders by powers of two on the right. -/
theorem segmentDecoderReadsAddressBits : Obligations.SegmentDecoderReadsAddressBits := by
  intro addr
  have := addr.isLt
  simp only [segmentOf_eq_iff, Segment.first, Segment.last, ← BitVec.toNat_inj, BitVec.extractLsb'_toNat,
    Nat.shiftRight_eq_div_pow, BitVec.reduceToNat, ne_eq]
  and_intros <;> omega

end Sys2Proof.Machine
end

section
/-! PROOFS. The encoding family (30_encoding.md): a byte taken apart into fields and put together again, what a pattern
makes of the bytes after the first, that every row of the decoder spells the encoding of its instruction, and that the
first byte of every encoding selects its row. -/

namespace Sys2Proof

open Machine

/-! ## Selectors by their bits (10_state.md R30 to R34) -/

@[simp] theorem R8.ofBits_bits (r : R8) : R8.ofBits r.bits = r := by cases r <;> rfl

@[simp] theorem R8.bits_ofBits (v : BitVec 3) : (R8.ofBits v).bits = v := by revert v; decide

@[simp] theorem R16.bits_ofBits (v : BitVec 2) : (R16.ofBits v).bits = v := by revert v; decide

@[simp] theorem R16Mem.bits_ofBits (v : BitVec 2) : (R16Mem.ofBits v).bits = v := by revert v; decide

@[simp] theorem R16Stk.bits_ofBits (v : BitVec 2) : (R16Stk.ofBits v).bits = v := by revert v; decide

@[simp] theorem Cond.bits_ofBits (v : BitVec 2) : (Cond.ofBits v).bits = v := by revert v; decide

/-- Six is the only value that selects no register (10_state.md R30). -/
theorem R8.isRegister_ofBits {v : BitVec 3} : v ≠ 6 → (R8.ofBits v).isRegister = true := by revert v; decide

/-! ## Bytes by their fields (30_encoding.md R102) -/

/-- Bits 3:0 of an opcode byte: `z`. -/
def fieldZ (op : Byte) : BitVec 4 := op.extractLsb' 0 4

/-- Bits 7:5 of an opcode byte: `i`. -/
def fieldI (op : Byte) : BitVec 3 := op.extractLsb' 5 3

/-- Three adjacent fields, the lowest at bit 0, are one field. -/
theorem extractLsb'_append_adjacent (op : Byte) (high mid low : Nat) :
    op.extractLsb' (mid + low) high ++ op.extractLsb' low mid ++ op.extractLsb' 0 low =
      op.extractLsb' 0 (high + mid + low) := by
  rw [BitVec.extractLsb'_append_extractLsb'_eq_extractLsb' (Nat.add_comm mid low),
    BitVec.extractLsb'_append_extractLsb'_eq_extractLsb' (Nat.zero_add low).symm, Nat.add_assoc]

theorem byteBAB_of_fields {op : Byte} {block : BitVec 2} {a b : BitVec 3} (atBlock : fieldBlock op = block)
    (atA : fieldA op = a) (atB : fieldB op = b) : byteBAB block a b = op := by
  rw [← atBlock, ← atA, ← atB]
  exact (extractLsb'_append_adjacent op 2 3 3).trans BitVec.extractLsb'_eq_self

theorem byteBYZ_of_fields {op : Byte} {block y : BitVec 2} {z : BitVec 4} (atBlock : fieldBlock op = block)
    (atY : fieldY op = y) (atZ : fieldZ op = z) : byteBYZ block y z = op := by
  rw [← atBlock, ← atY, ← atZ]
  exact (extractLsb'_append_adjacent op 2 2 4).trans BitVec.extractLsb'_eq_self

theorem byteIJB_of_fields {op : Byte} {i : BitVec 3} {j : BitVec 2} {b : BitVec 3} (atI : fieldI op = i)
    (atJ : fieldJ op = j) (atB : fieldB op = b) : byteIJB i j b = op := by
  rw [← atI, ← atJ, ← atB]
  exact (extractLsb'_append_adjacent op 3 2 3).trans BitVec.extractLsb'_eq_self

@[simp] theorem fieldBlock_byteBAB (block : BitVec 2) (a b : BitVec 3) : fieldBlock (byteBAB block a b) = block :=
  (BitVec.extractLsb'_append_eq_of_le (by decide)).trans BitVec.extractLsb'_append_eq_left

@[simp] theorem fieldA_byteBAB (block : BitVec 2) (a b : BitVec 3) : fieldA (byteBAB block a b) = a :=
  (BitVec.extractLsb'_append_eq_of_le (by decide)).trans BitVec.extractLsb'_append_eq_right

@[simp] theorem fieldB_byteBAB (block : BitVec 2) (a b : BitVec 3) : fieldB (byteBAB block a b) = b :=
  BitVec.extractLsb'_append_eq_right

/-! ## Bytes that fit a pattern (30_encoding.md R120) -/

/-- The bits that a mask covers are the pattern's. -/
theorem extractLsb'_of_fits {op mask pat : Byte} (fit : fits op mask pat = true) {start len : Nat}
    (covered : mask.extractLsb' start len = BitVec.allOnes len) :
    op.extractLsb' start len = pat.extractLsb' start len := by
  obtain rfl : op &&& mask = pat := beq_iff_eq.1 fit
  rw [BitVec.extractLsb'_and, covered, BitVec.and_allOnes]

/-- Field `a` open, `block` and `b` the pattern's. -/
theorem byteBAB_of_fits_a {op pat : Byte} (fit : fits op 0xC7 pat = true) {a : BitVec 3} (isA : a = fieldA op) :
    byteBAB (fieldBlock pat) a (fieldB pat) = op :=
  byteBAB_of_fields (extractLsb'_of_fits fit rfl) isA.symm (extractLsb'_of_fits fit rfl)

/-- Field `b` open, `block` and `a` the pattern's. -/
theorem byteBAB_of_fits_b {op pat : Byte} (fit : fits op 0xF8 pat = true) {b : BitVec 3} (isB : b = fieldB op) :
    byteBAB (fieldBlock pat) (fieldA pat) b = op :=
  byteBAB_of_fields (extractLsb'_of_fits fit rfl) (extractLsb'_of_fits fit rfl) isB.symm

/-- Fields `a` and `b` open, `block` the pattern's. -/
theorem byteBAB_of_fits_ab {op pat : Byte} (fit : fits op 0xC0 pat = true) {a b : BitVec 3} (isA : a = fieldA op)
    (isB : b = fieldB op) : byteBAB (fieldBlock pat) a b = op :=
  byteBAB_of_fields (extractLsb'_of_fits fit rfl) isA.symm isB.symm

/-- Field `y` open, `block` and `z` the pattern's. -/
theorem byteBYZ_of_fits {op pat : Byte} (fit : fits op 0xCF pat = true) {y : BitVec 2} (isY : y = fieldY op) :
    byteBYZ (fieldBlock pat) y (fieldZ pat) = op :=
  byteBYZ_of_fields (extractLsb'_of_fits fit rfl) isY.symm (extractLsb'_of_fits fit rfl)

/-- Field `j` open, `i` and `b` the pattern's. -/
theorem byteIJB_of_fits {op pat : Byte} (fit : fits op 0xE7 pat = true) {j : BitVec 2} (isJ : j = fieldJ op) :
    byteIJB (fieldI pat) j (fieldB pat) = op :=
  byteIJB_of_fields (extractLsb'_of_fits fit rfl) isJ.symm (extractLsb'_of_fits fit rfl)

/-- Of the bytes with field `a` open, only the one listed before them (R103) does not select a register by it. -/
theorem isRegister_of_fits_a {op pat : Byte} (fit : fits op 0xC7 pat = true)
    (ne : op ≠ byteBAB (fieldBlock pat) 6 (fieldB pat)) : (R8.ofBits (fieldA op)).isRegister = true :=
  R8.isRegister_ofBits fun six => ne (byteBAB_of_fits_a fit six.symm).symm

/-- Of the bytes with field `b` open, only the one listed before them (R103) does not select a register by it. -/
theorem isRegister_of_fits_b {op pat : Byte} (fit : fits op 0xF8 pat = true)
    (ne : op ≠ byteBAB (fieldBlock pat) (fieldA pat) 6) : (R8.ofBits (fieldB op)).isRegister = true :=
  R8.isRegister_ofBits fun six => ne (byteBAB_of_fits_b fit six.symm).symm

/-- The column `b` = 6 of block 1 is that of `LD r8,(HL)`. -/
theorem fits_hlColumn (a : BitVec 3) : fits (byteBAB 0b01 a 6) 0xC7 0x46 = true := by revert a; decide

/-- The row `a` = 6 of block 1 is that of `LD (HL),r8`. -/
theorem fits_hlRow (b : BitVec 3) : fits (byteBAB 0b01 6 b) 0xF8 0x70 = true := by revert b; decide

/-! ## The CB page (30_encoding.md R113) -/

/-- 0xCB and a second byte are the encoding of the instruction that the second byte selects. -/
theorem encode_decodeCb (cb : Byte) : encode (decodeCb cb) = [0xCB, cb] := by
  have spelled {block : BitVec 2} {a : BitVec 3} (atBlock : fieldBlock cb = block) (atA : fieldA cb = a) :
      [0xCB, byteBAB block a (R8.ofBits (fieldB cb)).bits] = [0xCB, cb] := by
    rw [byteBAB_of_fields atBlock atA (R8.bits_ofBits _).symm]
  unfold decodeCb
  split
  case h_1 block => split <;> exact spelled block ‹_›
  case h_2 block => exact spelled block rfl
  case h_3 block => exact spelled block rfl
  case h_4 block => exact spelled block rfl

theorem wf_decodeCb (cb : Byte) : (decodeCb cb).wf = true := by
  unfold decodeCb
  split
  · split <;> rfl
  all_goals rfl

/-! ## What a pattern makes of the bytes after the first (30_encoding.md R101, R106, R108) -/

/-- The instruction of a pattern whose operand byte is `v`, or whose operand word is `w`. -/
def Pattern.instr (v : Byte) (w : Word) : Pattern → Instr
  | .op i => i
  | .opImm8 k => k v
  | .opImm16 k => k w
  | .cb => decodeCb v

/-- The bytes that follow the first in a pattern whose operand byte is `v`, or whose operand word is `w`. -/
def Pattern.operand (v : Byte) (w : Word) : Pattern → List Byte
  | .op _ => []
  | .opImm8 _ => [v]
  | .opImm16 _ => [lo w, hi w]
  | .cb => [v]

theorem decode_pattern {op : Byte} {p : Pattern} (first : decodeFirst op = some p) (v : Byte) (w : Word)
    (rest : List Byte) : decode (op :: p.operand v w ++ rest) = .ok (p.instr v w, rest) := by
  cases p <;> simp [decode, first, Pattern.operand, Pattern.instr]

/-- Bytes that decode are the first byte of a pattern and the pattern's operand. -/
theorem pattern_of_decode {bytes rest : List Byte} {i : Instr} (decoded : decode bytes = .ok (i, rest)) :
    ∃ op p v w, decodeFirst op = some p ∧ p.instr v w = i ∧ op :: p.operand v w ++ rest = bytes := by
  match bytes with
  | [] => cases decoded
  | op :: tail =>
    cases first : decodeFirst op with
    | none => simp [decode, first] at decoded
    | some p =>
      simp only [decode, first] at decoded
      match p, tail, decoded with
      | .op i, tail, rfl => exact ⟨op, _, 0, 0, first, rfl, rfl⟩
      | .opImm8 k, v :: tail, rfl => exact ⟨op, _, v, 0, first, rfl, rfl⟩
      | .opImm16 k, low :: high :: tail, rfl =>
        exact ⟨op, _, 0, combine high low, first, rfl, by simp [Pattern.operand]⟩
      | .cb, v :: tail, rfl => exact ⟨op, _, v, 0, first, rfl, rfl⟩

/-! ## Every row of the decoder spells the encoding of its instruction (30_encoding.md R109) -/

/-- With any operand, the pattern's instruction is well formed, and its encoding is `op` and the operand. -/
def Pattern.Spells (op : Byte) (p : Pattern) : Prop :=
  ∀ v w, (p.instr v w).wf = true ∧ encode (p.instr v w) = op :: p.operand v w

/-- The pattern that a table of rows answers for `op`, if any, spells the encodings that begin with `op`. -/
def AnswerSpells (op : Byte) (answer : Option Pattern) : Prop := ∀ p, answer = some p → p.Spells op

theorem answerSpells_none (op : Byte) : AnswerSpells op none := fun _ answered => by cases answered

/-- A row of a table: under its test its pattern spells `op`; the test failing, the rows below it decide. -/
theorem answerSpells_row {test : Prop} [Decidable test] {op op' : Byte} {p : Pattern} {below : Option Pattern}
    (same : test → op' = op) (spells : test → p.Spells op') (otherwise : ¬ test → AnswerSpells op below) :
    AnswerSpells op (if test then some p else below) := by
  split
  case isTrue holds =>
    intro q answered
    obtain rfl : p = q := Option.some.inj answered
    exact same holds ▸ spells holds
  case isFalse fails => exact otherwise fails

/-- A row whose test is a literal byte. -/
theorem answerSpells_literal {op lit : Byte} {p : Pattern} {below : Option Pattern} (spells : p.Spells lit)
    (otherwise : op ≠ lit → AnswerSpells op below) : AnswerSpells op (if op = lit then some p else below) :=
  answerSpells_row Eq.symm (fun _ => spells) otherwise

/-- A row whose test is a mask and whose instruction is well formed with every selector. -/
theorem answerSpells_masked {op op' mask pat : Byte} {p : Pattern} {below : Option Pattern}
    (same : fits op mask pat = true → op' = op) (spells : p.Spells op') (otherwise : AnswerSpells op below) :
    AnswerSpells op (if fits op mask pat then some p else below) :=
  answerSpells_row same (fun _ => spells) fun _ => otherwise

theorem decodeBlock0_spells (op : Byte) : AnswerSpells op (decodeBlock0 op) := by
  unfold decodeBlock0
  iterate 12 refine answerSpells_literal (fun _ _ => ⟨rfl, rfl⟩) fun _ => ?_
  refine answerSpells_literal (fun _ _ => ⟨rfl, rfl⟩) fun ne34 => ?_
  refine answerSpells_literal (fun _ _ => ⟨rfl, rfl⟩) fun ne35 => ?_
  refine answerSpells_literal (fun _ _ => ⟨rfl, rfl⟩) fun ne36 => ?_
  refine answerSpells_masked (byteIJB_of_fits · (Cond.bits_ofBits _)) (fun _ _ => ⟨rfl, rfl⟩) ?_
  refine answerSpells_masked (byteBYZ_of_fits · (R16.bits_ofBits _)) (fun _ _ => ⟨rfl, rfl⟩) ?_
  iterate 2 refine answerSpells_masked (byteBYZ_of_fits · (R16Mem.bits_ofBits _)) (fun _ _ => ⟨rfl, rfl⟩) ?_
  iterate 3 refine answerSpells_masked (byteBYZ_of_fits · (R16.bits_ofBits _)) (fun _ _ => ⟨rfl, rfl⟩) ?_
  refine answerSpells_row (byteBAB_of_fits_a · (R8.bits_ofBits _))
    (fun fit _ _ => ⟨isRegister_of_fits_a fit ne34, rfl⟩) fun _ => ?_
  refine answerSpells_row (byteBAB_of_fits_a · (R8.bits_ofBits _))
    (fun fit _ _ => ⟨isRegister_of_fits_a fit ne35, rfl⟩) fun _ => ?_
  refine answerSpells_row (byteBAB_of_fits_a · (R8.bits_ofBits _))
    (fun fit _ _ => ⟨isRegister_of_fits_a fit ne36, rfl⟩) fun _ => ?_
  exact answerSpells_none op

theorem decodeBlock1_spells (op : Byte) : AnswerSpells op (decodeBlock1 op) := by
  unfold decodeBlock1
  refine answerSpells_literal (fun _ _ => ⟨rfl, rfl⟩) fun ne76 => ?_
  refine answerSpells_row (byteBAB_of_fits_a · (R8.bits_ofBits _))
    (fun fit _ _ => ⟨isRegister_of_fits_a fit ne76, rfl⟩) fun notColumn => ?_
  refine answerSpells_row (byteBAB_of_fits_b · (R8.bits_ofBits _))
    (fun fit _ _ => ⟨isRegister_of_fits_b fit ne76, rfl⟩) fun notRow => ?_
  refine answerSpells_row (byteBAB_of_fits_ab · (R8.bits_ofBits _) (R8.bits_ofBits _))
    (fun fit _ _ => ⟨Bool.and_eq_true_iff.2 ⟨?dst, ?r⟩, rfl⟩) fun _ => answerSpells_none op
  case dst =>
    exact R8.isRegister_ofBits fun six => notRow (byteBAB_of_fits_ab fit six.symm rfl ▸ fits_hlRow (fieldB op))
  case r =>
    exact R8.isRegister_ofBits fun six => notColumn (byteBAB_of_fits_ab fit rfl six.symm ▸ fits_hlColumn (fieldA op))

theorem decodeBlock2_spells (op : Byte) : AnswerSpells op (decodeBlock2 op) := by
  unfold decodeBlock2
  iterate 8 refine answerSpells_masked (byteBAB_of_fits_b · (R8.bits_ofBits _)) (fun _ _ => ⟨rfl, rfl⟩) ?_
  exact answerSpells_none op

theorem decodeBlock3_spells (op : Byte) : AnswerSpells op (decodeBlock3 op) := by
  unfold decodeBlock3
  iterate 12 refine answerSpells_literal (fun _ _ => ⟨rfl, rfl⟩) fun _ => ?_
  refine answerSpells_literal (fun cb _ => ⟨wf_decodeCb cb, encode_decodeCb cb⟩) fun _ => ?_
  iterate 23 refine answerSpells_literal (fun _ _ => ⟨rfl, rfl⟩) fun _ => ?_
  iterate 3 refine answerSpells_masked (byteIJB_of_fits · (Cond.bits_ofBits _)) (fun _ _ => ⟨rfl, rfl⟩) ?_
  refine answerSpells_masked (byteBAB_of_fits_a · rfl) (fun _ _ => ⟨rfl, rfl⟩) ?_
  iterate 2 refine answerSpells_masked (byteBYZ_of_fits · (R16Stk.bits_ofBits _)) (fun _ _ => ⟨rfl, rfl⟩) ?_
  exact answerSpells_none op

/-- The pattern that the first byte selects spells the encodings that begin with that byte. -/
theorem decodeFirst_spells (op : Byte) : AnswerSpells op (decodeFirst op) := by
  unfold decodeFirst
  split
  · exact decodeBlock0_spells op
  · exact decodeBlock1_spells op
  · exact decodeBlock2_spells op
  · exact decodeBlock3_spells op

/-! ## The first byte of every encoding selects its row (30_encoding.md R103, R109) -/

theorem decode_single {op : Byte} {i : Instr} (first : decodeFirst op = some (.op i)) (rest : List Byte) :
    decode ([op] ++ rest) = .ok (i, rest) :=
  decode_pattern first 0 0 rest

theorem decode_withWord {op : Byte} {k : Word → Instr} (first : decodeFirst op = some (.opImm16 k)) (w : Word)
    (rest : List Byte) : decode (withWord op w ++ rest) = .ok (k w, rest) :=
  decode_pattern first 0 w rest

/-- The bytes of the `PREFIX CB` row decode to the instruction that the second byte selects (30_encoding.md R113). -/
theorem decode_encode_prefixCb (cb : Byte) (rest : List Byte) :
    decode (encode (.prefixCb cb) ++ rest) = .ok (decodeCb cb, rest) := rfl

theorem decode_of_decodeCb {cb : Byte} {i : Instr} (selects : decodeCb cb = i) (rest : List Byte) :
    decode ([0xCB, cb] ++ rest) = .ok (i, rest) := selects ▸ decode_encode_prefixCb cb rest

theorem decodeFirst_rst (t : BitVec 3) : decodeFirst (byteBAB 0b11 t 0b111) = some (.op (.rstVec t)) := by
  match t with
  | 0 | 1 | 2 | 3 | 4 | 5 | 6 | 7 => rfl

/-- A byte of block 1 with two registers is no `(HL)` row, no `(HL)` column and not `HALT`. -/
theorem decodeFirst_ldR8R8 {dst r : R8} (dstRegister : dst.isRegister = true) (rRegister : r.isRegister = true) :
    decodeFirst (byteBAB 0b01 dst.bits r.bits) = some (.op (.ldR8R8 dst r)) := by
  cases dst with
  | hlMem => cases dstRegister
  | _ =>
    cases r with
    | hlMem => cases rRegister
    | _ => rfl

/-- Decoding gives every well-formed instruction back from its bytes: with its selectors' values written out the first
byte is a literal, which selects the row. -/
theorem decode_encode {i : Instr} (rest : List Byte) (wf : i.wf = true) :
    decode (encode i ++ rest) = .ok (i, rest) := by
  cases i with
  | prefixCb => cases wf
  | incR8 r | decR8 r | ldR8Hl r | ldR8Imm8 r | ldHlR8 r =>
    cases r with
    | hlMem => cases wf
    | _ => rfl
  | ldR8R8 dst r =>
    obtain ⟨dstRegister, rRegister⟩ := Bool.and_eq_true_iff.1 wf
    exact decode_single (decodeFirst_ldR8R8 dstRegister rRegister) rest
  | addAR8 r | adcAR8 r | subAR8 r | sbcAR8 r | andAR8 r | xorAR8 r | orAR8 r | cpAR8 r => cases r <;> rfl
  | ldR16MemA p | ldAR16Mem p | incR16 p | decR16 p | addHlR16 p | popR16stk p | pushR16stk p => cases p <;> rfl
  | jrCcE8 cc | retCc cc => cases cc <;> rfl
  | rstVec t => exact decode_single (decodeFirst_rst t) rest
  | ldA16Sp w | jpA16 w | callA16 w | ldA16A w | ldAA16 w => exact decode_withWord (by rfl) w rest
  | ldR16Imm16 x w | jpCcA16 x w | callCcA16 x w => cases x <;> exact decode_withWord (by rfl) w rest
  | rlcR8 | rrcR8 | rlR8 | rrR8 | slaR8 | sraR8 | swapR8 | srlR8 | bitNR8 | resNR8 | setNR8 =>
    exact decode_of_decodeCb (by simp [decodeCb]) rest
  | _ => rfl

/-! ## The statements -/

/-- Settles O58: the first byte of an encoding selects its row, and after 0xCB the second byte selects it. -/
theorem decodeOfEncodeIsTheInstruction : Obligations.DecodeOfEncodeIsTheInstruction :=
  ⟨fun _ rest wf => decode_encode rest wf, decode_encode_prefixCb⟩

/-- Settles O59: the bytes are a pattern's first byte and operand, and these spell the encoding of its instruction. -/
theorem encodeOfDecodeIsTheBytes : Obligations.EncodeOfDecodeIsTheBytes := by
  intro bytes rest i decoded
  obtain ⟨op, p, v, w, first, rfl, rfl⟩ := pattern_of_decode decoded
  obtain ⟨wf, spelled⟩ := decodeFirst_spells op p first v w
  exact ⟨wf, by rw [spelled]⟩

end Sys2Proof
end

section
/-! PROOFS. The data movement family (40_data_movement.md): the encoding of a well-formed instruction, loads and stores
of one byte where there is storage and where there is none, the change of HL after an indirect access, the flags of the
SP-relative forms, and the nine statements of the family. -/

namespace Sys2Proof.Machine

/-! ## Encodings -/

/-- A well-formed instruction has the bytes that `encode` writes, and the decoder reads it back from them alone. -/
theorem encodedAs_encode {i : Instr} (wf : i.wf = true) : encodedAs i (encode i) := by
  have readBack := decode_encode [] wf
  rw [List.append_nil] at readBack
  exact ⟨rfl, readBack⟩

/-! ## Register operands (10_state.md R30) -/

theorem operandReachable_register {i : R8} (reg : i.isRegister = true) (s : State) : operandReachable i s := by
  rintro rfl
  cases reg

theorem operandCells_register {i : R8} (reg : i.isRegister = true) (s : State) : operandCells i s = [] := by
  cases i with
  | hlMem => cases reg
  | _ => rfl

/-- A register destination takes any value in every state, and nothing else changes. -/
theorem done_writeR8_register {dst : R8} (reg : dst.isRegister = true) (v : Byte) (s : State) :
    ∃ t, done (writeR8 dst v s) = .next t ∧ operandByte dst t = v ∧ frame (operandRegs dst) [] [] s t := by
  obtain ⟨t, written, value, others, -⟩ := writeR8_ok (operandReachable_register reg s) v
  exact ⟨t, congrArg done written, value, operandCells_register reg s ▸ others⟩

/-- Going on after the read of a register operand is going on with its value. -/
theorem andThen_readR8_register {r : R8} (reg : r.isRegister = true) (s : State) (k : Byte → Result) :
    andThen (readR8 r s) k = k (operandByte r s) := by
  rw [readR8_ok (operandReachable_register reg s), andThen_ok]

/-! ## One byte of memory (20_memory.md R64, R65) -/

theorem andThen_readByte {a : Word} (stored : isStorage a = true) (s : State) (k : Byte → Result) :
    andThen (readByte .read a s) k = k (s.byteAt a) := by
  rw [readByte_ok stored, andThen_ok]

theorem andThen_writeByte {a : Word} (stored : isStorage a = true) (v : Byte) (s : State) (k : State → Result) :
    andThen (writeByte a v s) k = k (s.putByte a v) := by
  rw [writeByte_ok stored, andThen_ok]

/-- Whatever would have followed it, a read where there is no storage raises its BusFault. -/
theorem raised_andThen_readByte {a : Word} (gap : isStorage a = false) (s : State) (k : Byte → Result) :
    raised (andThen (readByte .read a s) k) = some (.busFault a .read) := by
  rw [readByte_error gap, andThen_error]; rfl

/-- Whatever would have followed it, a write where there is no storage raises its BusFault. -/
theorem raised_andThen_writeByte {a : Word} (gap : isStorage a = false) (v : Byte) (s : State) (k : State → Result) :
    raised (andThen (writeByte a v s) k) = some (.busFault a .write) := by
  rw [writeByte_error gap, andThen_error]; rfl

/-- A store that is the whole of an instruction puts its byte at the address and changes nothing else. -/
theorem done_writeByte {a : Word} (stored : isStorage a = true) (v : Byte) (s : State) :
    ∃ t, done (writeByte a v s) = .next t ∧ t.byteAt a = v ∧ frame [] [] [a] s t :=
  ⟨_, andThen_writeByte stored v s .next, byteAt_putByte_self s a v, frame_putByte_self s a v⟩

/-- A load of A takes the byte at the address and changes nothing else. -/
theorem andThen_readByte_write8_a {a : Word} (stored : isStorage a = true) (s : State) :
    ∃ t, andThen (readByte .read a s) (fun v => .next (s.write8 .a v)) = .next t ∧ t.read8 .a = s.byteAt a ∧
      frame [.a] [] [] s t :=
  ⟨_, andThen_readByte stored s _, read8_write8_self s .a _ (by decide),
    frame_write8 (frame_refl s) (List.mem_singleton_self .a) (by decide) _⟩

/-! ## The change of HL after an indirect access (10_state.md R32) -/

theorem byteAt_stepR16Mem (p : R16Mem) (s : State) (a : Word) : (stepR16Mem p s).byteAt a = s.byteAt a := by
  cases p <;> rfl

theorem read8_a_stepR16Mem (p : R16Mem) (s : State) : (stepR16Mem p s).read8 .a = s.read8 .a := by
  cases p <;> rfl

/-- The change starts from the HL that the access used, as long as the access left HL alone. -/
theorem read16_hl_stepR16Mem (p : R16Mem) {s t : State} (kept : t.read16 .hl = s.read16 .hl) :
    (stepR16Mem p t).read16 .hl = hlAfter p s := by
  cases p with
  | bc | de => exact kept
  | hlInc => exact congrArg (· + 1) kept
  | hlDec => exact congrArg (· - 1) kept

theorem frame_stepR16Mem {regs : List Reg8} {slots : List Reg16} {cells : List Word} {s t : State}
    (h : frame regs slots cells s t) (inH : .h ∈ regs) (inL : .l ∈ regs) (p : R16Mem) :
    frame regs slots cells s (stepR16Mem p t) := by
  cases p with
  | bc | de => exact h
  | hlInc | hlDec => exact frame_write_hl h inH inL _

/-! ## The flags of the SP-relative forms (40_data_movement.md R156, R157) -/

/-- The low byte of SP is SP modulo 256, and its low nibble is SP modulo 16. -/
theorem flagsAre_spOffsetFlags (sp : Word) (e8 : Byte) (s : State) :
    flagsAre (spOffsetFlags sp e8 s) False False (sp.toNat % 16 + e8.toNat % 16 > 0xF)
      (sp.toNat % 256 + e8.toNat > 0xFF) := by
  have nibble : sp.toNat % 256 % 16 = sp.toNat % 16 := Nat.mod_mod_of_dvd _ (by decide)
  simp [flagsAre, spOffsetFlags, halfCarry, fullCarry, toNat_lo, nibble]

/-! ## The statements -/

/-- Settles O1: a register operand is read and written in every state. -/
theorem loadRegisterFromRegisterOrImmediate : Obligations.LoadRegisterFromRegisterOrImmediate := by
  intro dst r v s dstReg rReg
  refine ⟨encodedAs_encode (Bool.and_eq_true_iff.2 ⟨dstReg, rReg⟩),
    encodedAs_encode (i := .ldR8Imm8 dst v) dstReg, ?register, done_writeR8_register dstReg v s⟩
  have moves : exec (.ldR8R8 dst r) s = done (writeR8 dst (operandByte r s) s) := andThen_readR8_register rReg s _
  rw [moves]
  exact done_writeR8_register dstReg (operandByte r s) s

/-- Settles O2: the byte at HL is read before the register is written, so `LD H,(HL)` and `LD L,(HL)` use the old HL. -/
theorem loadRegisterFromMemoryAtHl : Obligations.LoadRegisterFromMemoryAtHl := by
  intro dst s dstReg
  refine ⟨encodedAs_encode (i := .ldR8Hl dst) dstReg, fun stored => ?loads,
    fun gap => raised_andThen_readByte gap s _⟩
  have moves : exec (.ldR8Hl dst) s = done (writeR8 dst (s.byteAt (s.read16 .hl)) s) := andThen_readByte stored s _
  rw [moves]
  exact done_writeR8_register dstReg _ s

/-- Settles O3: both forms are one store at HL, of the register's value or of the immediate. -/
theorem storeByteAtHl : Obligations.StoreByteAtHl := by
  intro r v s rReg
  have moves : exec (.ldHlR8 r) s = done (writeByte (s.read16 .hl) (operandByte r s) s) :=
    andThen_readR8_register rReg s _
  rw [moves]
  exact ⟨encodedAs_encode (i := .ldHlR8 r) rReg, encodedAs_encode rfl,
    fun stored => ⟨done_writeByte stored _ s, done_writeByte stored v s⟩,
    fun gap => ⟨raised_andThen_writeByte gap _ s _, raised_andThen_writeByte gap v s _⟩⟩

/-- Settles O4: both forms are one write of a slot other than AF, whose value is read back whole. -/
theorem loadPairImmediateAndSpFromHl : Obligations.LoadPairImmediateAndSpFromHl := by
  intro p w s
  have notAf : slotOfR16 p ≠ .af := by cases p <;> decide
  refine ⟨encodedAs_encode rfl, encodedAs_encode rfl, ⟨_, rfl, ?word, frame_writeR16 p w s⟩,
    ⟨_, rfl, rfl, frame_writeR16 .sp (s.read16 .hl) s⟩⟩
  case word => rw [read16_write16, if_pos rfl, if_neg notAf]

/-- Settles O5: the access is at the old HL, it leaves HL alone, and then HL is changed as the selector says. -/
theorem indirectLoadAndStoreThroughPair : Obligations.IndirectLoadAndStoreThroughPair := by
  intro p s
  refine ⟨encodedAs_encode rfl, encodedAs_encode rfl, fun stored => ⟨?store, ?load⟩,
    fun gap => ⟨raised_andThen_writeByte gap _ s _, raised_andThen_readByte gap s _⟩⟩
  case store =>
    refine ⟨_, andThen_writeByte stored _ s _, ?_, read16_hl_stepR16Mem p (read16_putByte s _ _ .hl), ?_⟩
    · rw [byteAt_stepR16Mem, byteAt_putByte_self]
    · exact frame_stepR16Mem (frame_putByte (frame_refl s) (by simp) _) (by simp) (by simp) p
  case load =>
    refine ⟨_, andThen_readByte stored s _, ?_, read16_hl_stepR16Mem p (read16_hl_write8_a s _), ?_⟩
    · rw [read8_a_stepR16Mem, read8_write8_self _ _ _ (by decide)]
    · exact frame_stepR16Mem (frame_write8 (frame_refl s) (by simp) (by decide) _) (by simp) (by simp) p

/-- Settles O6: 0xFF00 plus a byte is the high address of that byte, which is always storage. -/
theorem highMemoryLoadsAndStoresComplete : Obligations.HighMemoryLoadsAndStoresComplete := by
  intro a8 s
  simp only [← highAddr_eq_add]
  exact ⟨encodedAs_encode rfl, encodedAs_encode rfl, encodedAs_encode rfl, encodedAs_encode rfl,
    done_writeByte (isStorage_highAddr a8) _ s, andThen_readByte_write8_a (isStorage_highAddr a8) s,
    done_writeByte (isStorage_highAddr _) _ s, andThen_readByte_write8_a (isStorage_highAddr _) s⟩

/-- Settles O7: the instruction is one word write of SP, which faults at its first byte without storage. -/
theorem storeSpAbsolute : Obligations.StoreSpAbsolute := by
  intro a16 s
  refine ⟨encodedAs_encode rfl, fun low high => ?stores, fun low => ?first, fun low high => ?second⟩
  case stores =>
    obtain ⟨t, written, effect⟩ := writeWord_stores low high (s.read16 .sp) s
    exact ⟨t, congrArg done written, effect⟩
  case first => exact congrArg (raised ∘ done) (writeWord_error_low low (s.read16 .sp) s)
  case second => exact congrArg (raised ∘ done) (writeWord_error_high low high (s.read16 .sp) s)

/-- Settles O8: each form is one access at the address the instruction names. -/
theorem absoluteLoadAndStoreOfA : Obligations.AbsoluteLoadAndStoreOfA := by
  intro a16 s
  exact ⟨encodedAs_encode rfl, encodedAs_encode rfl,
    fun stored => ⟨done_writeByte stored _ s, andThen_readByte_write8_a stored s⟩,
    fun gap => ⟨raised_andThen_writeByte gap _ s _, raised_andThen_readByte gap s _⟩⟩

/-- Settles O9: the slot takes the signed sum, and the flag writes after it leave the slot alone. -/
theorem spPlusOffsetForms : Obligations.SpPlusOffsetForms := by
  intro e8 s
  refine ⟨encodedAs_encode rfl, encodedAs_encode rfl,
    ⟨_, rfl, toNat_add_sext16 _ e8, flagsAre_spOffsetFlags _ e8 _, ?hl⟩,
    ⟨_, rfl, toNat_add_sext16 _ e8, flagsAre_spOffsetFlags _ e8 _, ?sp⟩⟩
  case hl => exact frame_writeFlags (frame_write_hl (frame_refl s) (by simp) (by simp) _) (by simp) _ _ _ _
  case sp => exact frame_writeFlags (frame_write_sp (frame_refl s) (by simp) _) (by simp) _ _ _ _

end Sys2Proof.Machine
end

section
/-! PROOFS. The arithmetic family (41_arithmetic.md): sums and differences with a carry-in as numbers, flags written as
tests, the ALU on the accumulator, instructions that read an R8 operand and write it back, and the eight statements of
the family. -/

namespace Sys2Proof.Machine

/-! ## Sums and differences as numbers (00_scope.md R10) -/

theorem toNat_bitByte (cin : Bool) : (bitByte cin).toNat = cin.toNat := by cases cin <;> rfl

theorem toNat_add_add_bitByte (a b : Byte) (cin : Bool) :
    (a + b + bitByte cin).toNat = (a.toNat + b.toNat + cin.toNat) % 256 := by
  rw [BitVec.toNat_add, BitVec.toNat_add, toNat_bitByte, Nat.mod_add_mod]

/-- The 512 keeps the difference of the numbers from below zero: `b + cin` is at most 256. -/
theorem toNat_sub_sub_bitByte (a b : Byte) (cin : Bool) :
    (a - b - bitByte cin).toNat = (a.toNat + 512 - b.toNat - cin.toNat) % 256 := by
  have := b.isLt
  have := cin.toNat_le
  rw [BitVec.toNat_sub, BitVec.toNat_sub, toNat_bitByte]; omega

theorem beq_iff_toNat_eq {v w : Byte} : (v == w) = true ↔ v.toNat = w.toNat := beq_iff_eq.trans BitVec.toNat_inj.symm

/-- Bits 3:0 are the byte modulo 16. -/
theorem lowNibble_beq_iff {v w : Byte} : (v &&& 0x0F == w) = true ↔ v.toNat % 16 = w.toNat := by
  have masked : (v &&& 0x0F).toNat = v.toNat % 16 := Nat.and_two_pow_sub_one_eq_mod v.toNat 4
  rw [beq_iff_toNat_eq, masked]

/-! ## Flags as propositions (10_state.md R25) -/

section Flags

variable {z n h c : Bool} {pz pn ph pc : Prop}

theorem flagsAre_writeFlags (s : State) (hz : z = true ↔ pz) (hn : n = true ↔ pn) (hh : h = true ↔ ph)
    (hc : c = true ↔ pc) : flagsAre (s.writeFlags z n h c) pz pn ph pc := by
  simp only [flagsAre, readFlag_writeFlags]
  exact ⟨hz, hn, hh, hc⟩

/-- Z, N and H written one by one leave C. -/
theorem flagsAre_writeFlag_znh (s : State) (hz : z = true ↔ pz) (hn : n = true ↔ pn) (hh : h = true ↔ ph) :
    flagsAre (((s.writeFlag .z z).writeFlag .n n).writeFlag .h h) pz pn ph (was s .c) := by
  simp [flagsAre, was, hz, hn, hh]

/-- N, H and C written one by one leave Z. -/
theorem flagsAre_writeFlag_nhc (s : State) (hn : n = true ↔ pn) (hh : h = true ↔ ph) (hc : c = true ↔ pc) :
    flagsAre (((s.writeFlag .n n).writeFlag .h h).writeFlag .c c) (was s .z) pn ph pc := by
  simp [flagsAre, was, hn, hh, hc]

end Flags

/-! ## The accumulator (41_arithmetic.md R170 to R174) -/

/-- The flags are written after A, which they leave alone. -/
theorem addsToA_aluAdd (b : Byte) (cin : Bool) (s : State) : addsToA b cin.toNat s (aluAdd b cin s) := by
  have sum := toNat_add_add_bitByte (s.read8 .a) b cin
  refine ⟨?a, flagsAre_writeFlags _ ?zero (by decide) decide_eq_true_iff decide_eq_true_iff, ?others⟩
  case a => rw [aluAdd, read8_writeFlags _ _ _ _ _ _ (by decide), read8_write8_self _ _ _ (by decide), sum]
  case zero => rw [beq_iff_toNat_eq, sum]; rfl
  case others =>
    exact frame_writeFlags (frame_write8 (frame_refl s) (by simp) (by decide) _) (by simp) _ _ _ _

theorem subFlags_aluCompare (b : Byte) (cin : Bool) (s : State) : subFlags b cin.toNat s (aluCompare b cin s) := by
  refine flagsAre_writeFlags _ ?zero (by decide) decide_eq_true_iff decide_eq_true_iff
  case zero => rw [beq_iff_toNat_eq, toNat_sub_sub_bitByte]; rfl

theorem frame_aluCompare {regs : List Reg8} (inF : .f ∈ regs) (b : Byte) (cin : Bool) (s : State) :
    frame regs [] [] s (aluCompare b cin s) :=
  frame_writeFlags (frame_refl s) inF _ _ _ _

theorem comparesWithA_aluCompare (b : Byte) (s : State) : comparesWithA b s (aluCompare b false s) :=
  ⟨subFlags_aluCompare b false s, frame_aluCompare (by simp) b false s⟩

/-- A is written after the flags, which it leaves alone. -/
theorem subtractsFromA_aluSub (b : Byte) (cin : Bool) (s : State) : subtractsFromA b cin.toNat s (aluSub b cin s) := by
  refine ⟨?a, ?flags, frame_write8 (frame_aluCompare (by simp) b cin s) (by simp) (by decide) _⟩
  case a => rw [aluSub, read8_write8_self _ _ _ (by decide), toNat_sub_sub_bitByte]
  case flags =>
    have kept (f : Flag) : (aluSub b cin s).readFlag f = (aluCompare b cin s).readFlag f :=
      readFlag_write8 _ _ _ f (by decide)
    simpa only [subFlags, flagsAre, kept] using subFlags_aluCompare b cin s

/-! ## R8 operands that are read, and written back (00_scope.md R11) -/

theorem andThen_readR8 {i : R8} {s : State} (reach : operandReachable i s) (k : Byte → Result) :
    andThen (readR8 i s) k = k (operandByte i s) := by
  rw [readR8_ok reach, andThen_ok]

/-- Whatever would have followed it, the read of an operand without storage raises its BusFault. -/
theorem faultsAtHl_andThen_readR8 (i : R8) (s : State) (k : Byte → Result) :
    faultsAtHl i s (andThen (readR8 i s) k) := by
  rintro rfl gap
  exact raised_andThen_readByte gap s k

/-- A reachable operand is read, its new value written back, and `k` goes on: from a state that is as before but for the
operand. -/
theorem andThen_readR8_writeR8 {i : R8} {s : State} (reach : operandReachable i s) (f : Byte → Byte)
    (k : Byte → State → Result) :
    ∃ t, (andThen (readR8 i s) fun v => andThen (writeR8 i (f v) s) (k v)) = k (operandByte i s) t ∧
      operandByte i t = f (operandByte i s) ∧ frame (operandRegs i) [] (operandCells i s) s t ∧
      ∀ g, t.readFlag g = s.readFlag g := by
  obtain ⟨t, written, effect⟩ := writeR8_ok reach (f (operandByte i s))
  exact ⟨t, by rw [andThen_readR8 reach, written, andThen_ok], effect⟩

/-- A frame that names neither H nor L keeps HL. -/
theorem read16_hl_of_frame {regs : List Reg8} {slots : List Reg16} {cells : List Word} {s t : State}
    (others : frame regs slots cells s t) (notH : .h ∉ regs) (notL : .l ∉ regs) : t.read16 .hl = s.read16 .hl := by
  rw [read16_hl, read16_hl, others.1.reg8 .h notH, others.1.reg8 .l notL]

/-! ## INC and DEC of an R8 operand (41_arithmetic.md R180 to R183) -/

/-- The outcome completes with the operand `value`, Z, N and H as given and C kept; nothing else changes. -/
def operandSteps (i : R8) (value : Nat) (z n h : Prop) (s : State) (o : Result) : Prop :=
  ∃ t, o = .next t ∧ (operandByte i t).toNat = value ∧ flagsAre t z n h (was s .c) ∧
    frame (.f :: operandRegs i) [] (operandCells i s) s t

/-- A register operand has no byte of memory in its frame. -/
theorem operandSteps.of_register {i : R8} {value : Nat} {z n h : Prop} {s : State} {o : Result}
    (steps : operandSteps i value z n h s o) (reg : i.isRegister = true) :
    ∃ t, o = .next t ∧ (operandByte i t).toNat = value ∧ flagsAre t z n h (was s .c) ∧
      frame (.f :: operandRegs i) [] [] s t := by
  obtain ⟨t, ran, result, flags, others⟩ := steps
  exact ⟨t, ran, result, flags, operandCells_register reg s ▸ others⟩

/-- The byte at HL after the instruction is the byte at the old HL. -/
theorem operandSteps.of_hlMem {value : Nat} {z n h : Prop} {s : State} {o : Result}
    (steps : operandSteps .hlMem value z n h s o) :
    ∃ t, o = .next t ∧ (t.byteAt (s.read16 .hl)).toNat = value ∧ flagsAre t z n h (was s .c) ∧
      frame [.f] [] [s.read16 .hl] s t := by
  obtain ⟨t, ran, result, flags, others⟩ := steps
  have kept : t.read16 .hl = s.read16 .hl := read16_hl_of_frame others (by decide) (by decide)
  exact ⟨t, ran, kept ▸ result, flags, others⟩

/-- A reachable operand is rewritten by `f`, and then Z, N and H are written from its old value. -/
theorem operandSteps_rewrite {i : R8} {s : State} (reach : operandReachable i s) (f : Byte → Byte)
    {z n h : Byte → Bool} {value : Nat} {pz pn ph : Prop} (result : (f (operandByte i s)).toNat = value)
    (hz : z (operandByte i s) = true ↔ pz) (hn : n (operandByte i s) = true ↔ pn)
    (hh : h (operandByte i s) = true ↔ ph) :
    operandSteps i value pz pn ph s
      (andThen (readR8 i s) fun v => andThen (writeR8 i (f v) s) fun t =>
        .next (((t.writeFlag .z (z v)).writeFlag .n (n v)).writeFlag .h (h v))) := by
  obtain ⟨t, ran, written, others, flags⟩ := andThen_readR8_writeR8 reach f fun v t =>
    .next (((t.writeFlag .z (z v)).writeFlag .n (n v)).writeFlag .h (h v))
  refine ⟨_, ran, ?operand, ?flags, ?others⟩
  case operand => simp only [operandByte_writeFlag, written, result]
  case flags => simpa only [was, flags] using flagsAre_writeFlag_znh t hz hn hh
  case others =>
    have named : frame (.f :: operandRegs i) [] (operandCells i s) s t :=
      frame_mono others (fun _ inRegs => List.mem_cons_of_mem _ inRegs) (fun _ => id) fun _ => id
    exact frame_writeFlag (frame_writeFlag (frame_writeFlag named (by simp) _ _) (by simp) _ _) (by simp) _ _

theorem exec_incR8 {i : R8} {s : State} (reach : operandReachable i s) :
    operandSteps i (((operandByte i s).toNat + 1) % 256) ((operandByte i s).toNat = 0xFF) False
      ((operandByte i s).toNat % 16 = 0xF) s (exec (.incR8 i) s) :=
  operandSteps_rewrite reach (· + 1) (BitVec.toNat_add _ 1) beq_iff_toNat_eq (by decide) lowNibble_beq_iff

theorem exec_decR8 {i : R8} {s : State} (reach : operandReachable i s) :
    operandSteps i (((operandByte i s).toNat + 255) % 256) ((operandByte i s).toNat = 1) True
      ((operandByte i s).toNat % 16 = 0) s (exec (.decR8 i) s) :=
  operandSteps_rewrite reach (· - 1) (by rw [Nat.add_comm]; exact BitVec.toNat_sub _ 1) beq_iff_toNat_eq (by decide)
    lowNibble_beq_iff

/-- `INC (HL)` is `INC` of the operand that is the byte at HL (41_arithmetic.md R181). -/
theorem exec_incHl (s : State) : exec .incHl s = exec (.incR8 .hlMem) s := rfl

/-- `DEC (HL)` is `DEC` of the operand that is the byte at HL (41_arithmetic.md R183). -/
theorem exec_decHl (s : State) : exec .decHl s = exec (.decR8 .hlMem) s := rfl

/-! ## Pairs (10_state.md R31) -/

/-- No R16 selector names AF, so the written word is read back whole. -/
theorem read16_writeR16_self (p : R16) (w : Word) (s : State) :
    (s.write16 (slotOfR16 p) w).read16 (slotOfR16 p) = w := by
  cases p <;> rfl

/-! ## The statements -/

/-- Settles O10: a reachable operand is read as its byte, and from there on all forms are the ALU's addition. -/
theorem addAndAdcAllForms : Obligations.AddAndAdcAllForms := by
  intro r v s
  exact ⟨encodedAs_encode rfl, encodedAs_encode rfl, encodedAs_encode rfl, encodedAs_encode rfl,
    fun reach => ⟨⟨_, andThen_readR8 reach _, addsToA_aluAdd _ false s⟩,
      ⟨_, andThen_readR8 reach _, addsToA_aluAdd _ _ s⟩⟩,
    faultsAtHl_andThen_readR8 r s _, faultsAtHl_andThen_readR8 r s _,
    ⟨_, rfl, addsToA_aluAdd v false s⟩, ⟨_, rfl, addsToA_aluAdd v _ s⟩⟩

/-- Settles O11: a reachable operand is read as its byte, and from there on all forms are the ALU's subtraction. -/
theorem subAndSbcAllForms : Obligations.SubAndSbcAllForms := by
  intro r v s
  exact ⟨encodedAs_encode rfl, encodedAs_encode rfl, encodedAs_encode rfl, encodedAs_encode rfl,
    fun reach => ⟨⟨_, andThen_readR8 reach _, subtractsFromA_aluSub _ false s⟩,
      ⟨_, andThen_readR8 reach _, subtractsFromA_aluSub _ _ s⟩⟩,
    faultsAtHl_andThen_readR8 r s _, faultsAtHl_andThen_readR8 r s _,
    ⟨_, rfl, subtractsFromA_aluSub v false s⟩, ⟨_, rfl, subtractsFromA_aluSub v _ s⟩⟩

/-- Settles O12: the comparison is the flag part of the ALU's subtraction. -/
theorem compareWritesFlagsOnly : Obligations.CompareWritesFlagsOnly := by
  intro r v s
  exact ⟨encodedAs_encode rfl, encodedAs_encode rfl,
    fun reach => ⟨_, andThen_readR8 reach _, comparesWithA_aluCompare _ s⟩,
    faultsAtHl_andThen_readR8 r s _, ⟨_, rfl, comparesWithA_aluCompare v s⟩⟩

/-- Settles O13: a carry-in of at most 1 makes the sum `a + b + cin` carry where `b + cin` carries or `a` plus the reduced
`b + cin` does, and the same with borrows; arithmetic on the flags of R171 and R173. -/
theorem adcSbcFoldTheCarryInTwoSteps : Obligations.AdcSbcFoldTheCarryInTwoSteps := by
  intro v s
  have := Bool.toNat_le (s.readFlag .c)
  have := v.isLt
  have := (s.read8 .a).isLt
  obtain ⟨-, ⟨-, -, addH, addC⟩, -⟩ := addsToA_aluAdd v (s.readFlag .c) s
  obtain ⟨-, ⟨-, -, subH, subC⟩, -⟩ := subtractsFromA_aluSub v (s.readFlag .c) s
  refine ⟨⟨_, rfl, addH.trans ?_, addC.trans ?_⟩, ⟨_, rfl, subH.trans ?_, subC.trans ?_⟩⟩
  all_goals
    rw [carryIn]
    omega

/-- Settles O14: a register operand is rewritten in every state. -/
theorem incrementAndDecrementRegister : Obligations.IncrementAndDecrementRegister := by
  intro dst s reg
  have reach := operandReachable_register reg s
  exact ⟨encodedAs_encode (i := .incR8 dst) reg, encodedAs_encode (i := .decR8 dst) reg,
    (exec_incR8 reach).of_register reg, (exec_decR8 reach).of_register reg⟩

/-- Settles O15: the operand of `INC r8` and `DEC r8` that is the byte at HL, reachable where HL is storage. -/
theorem incrementAndDecrementMemory : Obligations.IncrementAndDecrementMemory := by
  intro s
  refine ⟨encodedAs_encode rfl, encodedAs_encode rfl, fun stored => ?steps,
    fun gap => ⟨raised_andThen_readByte gap s _, raised_andThen_readByte gap s _⟩⟩
  case steps =>
    rw [exec_incHl, exec_decHl]
    exact ⟨(exec_incR8 fun _ => stored).of_hlMem, (exec_decR8 fun _ => stored).of_hlMem⟩

/-- Settles O16: HL takes the sum, whatever the pair, and the flag writes after it leave HL and Z alone. -/
theorem addPairToHl : Obligations.AddPairToHl := by
  intro p s
  refine ⟨encodedAs_encode rfl, _, rfl, BitVec.toNat_add _ _,
    flagsAre_writeFlag_nhc _ (by decide) decide_eq_true_iff decide_eq_true_iff, ?others⟩
  have summed : frame [.h, .l, .f] [] [] s (s.write16 .hl (s.read16 .hl + s.read16 (slotOfR16 p))) :=
    frame_write_hl (frame_refl s) (by simp) (by simp) _
  exact frame_writeFlag (frame_writeFlag (frame_writeFlag summed (by simp) _ _) (by simp) _ _) (by simp) _ _

/-- Settles O17: both forms are one write of a slot, which no flag write follows. -/
theorem incrementAndDecrementPair : Obligations.IncrementAndDecrementPair := by
  intro p s
  refine ⟨encodedAs_encode rfl, encodedAs_encode rfl, ⟨_, rfl, ?inc, frame_writeR16 p _ s⟩,
    ⟨_, rfl, ?dec, frame_writeR16 p _ s⟩⟩
  case inc => rw [read16_writeR16_self]; exact BitVec.toNat_add _ 1
  case dec => rw [read16_writeR16_self, Nat.add_comm]; exact BitVec.toNat_sub _ 1

end Sys2Proof.Machine
end

section
/-! PROOFS. The logic family (42_logic.md): a zero byte by its bits, the end that `AND`, `OR` and `XOR` share, and the
two statements of the family. -/

namespace Sys2Proof.Machine

/-! ## AND, OR and XOR on the accumulator (42_logic.md R200 to R202) -/

theorem beq_zero_iff_getLsbD {v : Byte} : (v == 0) = true ↔ ∀ i, i < 8 → v.getLsbD i = false := by
  rw [beq_iff_eq]
  constructor
  · rintro rfl i -
    exact BitVec.getLsbD_zero
  · intro clear
    exact BitVec.eq_of_getLsbD_eq fun i lt => (clear i lt).trans BitVec.getLsbD_zero.symm

/-- The three operations end alike: a result whose bits are `f` in A, and then the flags, which leave A alone. -/
theorem logicOnA_write8_writeFlags {result : Byte} {f : Nat → Bool} (bits : ∀ i, result.getLsbD i = f i) {h : Bool}
    {ph : Prop} (hh : h = true ↔ ph) (s : State) :
    logicOnA f ph s ((s.write8 .a result).writeFlags (result == 0) false h false) := by
  obtain rfl : result.getLsbD = f := funext bits
  refine ⟨fun i _ => ?a, flagsAre_writeFlags _ beq_zero_iff_getLsbD (by decide) hh (by decide), ?others⟩
  case a => rw [read8_writeFlags _ _ _ _ _ _ (by decide), read8_write8_self _ _ _ (by decide)]
  case others =>
    exact frame_writeFlags (frame_write8 (frame_refl s) (by simp) (by decide) _) (by simp) _ _ _ _

theorem logicOnA_aluAnd (b : Byte) (s : State) :
    logicOnA (fun i => (s.read8 .a).getLsbD i && b.getLsbD i) True s (aluAnd b s) :=
  logicOnA_write8_writeFlags (fun _ => BitVec.getLsbD_and) (by decide) s

theorem logicOnA_aluOr (b : Byte) (s : State) :
    logicOnA (fun i => (s.read8 .a).getLsbD i || b.getLsbD i) False s (aluOr b s) :=
  logicOnA_write8_writeFlags (fun _ => BitVec.getLsbD_or) (by decide) s

theorem logicOnA_aluXor (b : Byte) (s : State) :
    logicOnA (fun i => (s.read8 .a).getLsbD i != b.getLsbD i) False s (aluXor b s) :=
  logicOnA_write8_writeFlags (fun _ => BitVec.getLsbD_xor) (by decide) s

/-! ## The statements -/

/-- Settles O18: a reachable operand is read as its byte, and from there on all forms are the ALU's bitwise operation. -/
theorem logicAllForms : Obligations.LogicAllForms := by
  intro r v s
  exact ⟨encodedAs_encode rfl, encodedAs_encode rfl, encodedAs_encode rfl, encodedAs_encode rfl, encodedAs_encode rfl,
    encodedAs_encode rfl,
    fun reach => ⟨⟨_, andThen_readR8 reach _, logicOnA_aluAnd _ s⟩, ⟨_, andThen_readR8 reach _, logicOnA_aluOr _ s⟩,
      ⟨_, andThen_readR8 reach _, logicOnA_aluXor _ s⟩⟩,
    faultsAtHl_andThen_readR8 r s _, faultsAtHl_andThen_readR8 r s _, faultsAtHl_andThen_readR8 r s _,
    ⟨_, rfl, logicOnA_aluAnd v s⟩, ⟨_, rfl, logicOnA_aluOr v s⟩, ⟨_, rfl, logicOnA_aluXor v s⟩⟩

/-- Settles O19: A takes its complement, and of the flags only N and H are written after it, which leave A alone. -/
theorem complementA : Obligations.ComplementA := by
  intro s
  refine ⟨encodedAs_encode rfl, _, rfl, fun i lt => ?a, ?flags, ?others⟩
  case a =>
    rw [read8_writeFlag _ _ _ _ (by decide), read8_writeFlag _ _ _ _ (by decide), read8_write8_self _ _ _ (by decide),
      BitVec.getLsbD_not, decide_eq_true lt, Bool.true_and]
  case flags => simp [flagsAre, was]
  case others =>
    have complemented : frame [.a, .f] [] [] s (s.write8 .a (~~~(s.read8 .a))) :=
      frame_write8 (frame_refl s) (by simp) (by decide) _
    exact frame_writeFlag (frame_writeFlag complemented (by simp) _ _) (by simp) _ _

end Sys2Proof.Machine
end

section
/-! PROOFS. The rotate, shift and bit family (43_rotate_shift_bit.md): the data paths bit by bit, the end that the
accumulator rotates share and the one that the CB rotates and shifts share, one bit of a byte cleared or set, and the
four statements of the family. -/

namespace Sys2Proof.Machine

/-! ## Data paths bit by bit (43_rotate_shift_bit.md R215 to R226) -/

/-- The shifter's byte has the bits `f`, and its carry is `c`. -/
def Shifted.HasBits (r : Shifted) (f : Nat → Bool) (c : Bool) : Prop :=
  (∀ i, i < 8 → r.value.getLsbD i = f i) ∧ r.carry = c

theorem getLsbD_bitByte (b : Bool) (i : Nat) : (bitByte b).getLsbD i = (decide (i = 0) && b) := by
  cases b
  · simp [bitByte]
  · exact (BitVec.getLsbD_one (w := 8)).trans (by simp)

theorem hasBits_shiftLeftIn (v : Byte) (low : Bool) :
    (shiftLeftIn v low).HasBits (fun i => if i = 0 then low else v.getLsbD (i - 1)) (v.getLsbD 7) := by
  refine ⟨fun i lt => ?_, rfl⟩
  rw [shiftLeftIn, BitVec.getLsbD_or, BitVec.getLsbD_shiftLeft, getLsbD_bitByte]
  by_cases zero : i = 0
  · simp [zero]
  · simp [zero, lt]

theorem hasBits_shiftRightIn (v : Byte) (high : Bool) :
    (shiftRightIn v high).HasBits (fun i => if i = 7 then high else v.getLsbD (i + 1)) (v.getLsbD 0) := by
  refine ⟨fun i lt => ?_, rfl⟩
  rw [shiftRightIn, BitVec.getLsbD_or, BitVec.getLsbD_ushiftRight, BitVec.getLsbD_shiftLeft, getLsbD_bitByte,
    Nat.add_comm 1 i]
  by_cases top : i = 7
  · simp [top]
  · have below : i < 7 := by omega
    simp [top, below]

theorem hasBits_rotLeft (v : Byte) :
    (rotLeft v).HasBits (fun i => v.getLsbD ((i + 7) % 8)) (v.getLsbD 7) := by
  obtain ⟨bits, carry⟩ := hasBits_shiftLeftIn v (v.getLsbD 7)
  refine ⟨fun i lt => (bits i lt).trans ?_, carry⟩
  dsimp only
  split
  case isTrue zero => rw [zero]
  case isFalse pos =>
    have fromBelow : (i + 7) % 8 = i - 1 := by omega
    rw [fromBelow]

theorem hasBits_rotRight (v : Byte) :
    (rotRight v).HasBits (fun i => v.getLsbD ((i + 1) % 8)) (v.getLsbD 0) := by
  obtain ⟨bits, carry⟩ := hasBits_shiftRightIn v (v.getLsbD 0)
  refine ⟨fun i lt => (bits i lt).trans ?_, carry⟩
  dsimp only
  split
  case isTrue top => rw [top]
  case isFalse below =>
    have fromAbove : (i + 1) % 8 = i + 1 := by omega
    rw [fromAbove]

theorem hasBits_swapNibbles (v : Byte) :
    (swapNibbles v).HasBits (fun i => v.getLsbD ((i + 4) % 8)) false := by
  refine ⟨fun i lt => ?_, rfl⟩
  rw [swapNibbles, BitVec.getLsbD_or, BitVec.getLsbD_shiftLeft, BitVec.getLsbD_ushiftRight]
  by_cases low : i < 4
  · have fromHigh : (i + 4) % 8 = 4 + i := by omega
    simp [low, fromHigh]
  · have fromLow : (i + 4) % 8 = i - 4 := by omega
    have beyond : v.getLsbD (4 + i) = false := BitVec.getLsbD_of_ge _ _ (by omega)
    simp [low, lt, fromLow, beyond]

/-! ## The two ends of a rotate or shift -/

theorem accRotates_accRotate {r : Shifted} {f : Nat → Bool} {c : Bool} (has : r.HasBits f c) (s : State) :
    accRotates f (c = true) s (accRotate r s) := by
  obtain ⟨bits, rfl⟩ := has
  refine ⟨?a, flagsAre_writeFlags _ (by decide) (by decide) (by decide) Iff.rfl, ?others⟩
  case a => rwa [accRotate, read8_writeFlags _ _ _ _ _ _ (by decide), read8_write8_self _ _ _ (by decide)]
  case others =>
    exact frame_writeFlags (frame_write8 (frame_refl s) (by simp) (by decide) _) (by simp) _ _ _ _

/-- A reachable operand is rewritten by the data path `path`, and then all four flags are written. -/
theorem operandBecomes_rotOperand {r : R8} {s : State} (reach : operandReachable r s) {path : Byte → Shifted}
    {f : Nat → Bool} {c : Bool} (has : (path (operandByte r s)).HasBits f c) :
    ∃ t, rotOperand r path s = .next t ∧ operandBecomes r f (c = true) s t := by
  obtain ⟨bits, rfl⟩ := has
  obtain ⟨t, ran, written, others, -⟩ := andThen_readR8_writeR8 reach (fun v => (path v).value) fun v t =>
    .next (rotTailFlags (path v) t)
  refine ⟨_, ran, ?operand, flagsAre_writeFlags _ ?zero (by decide) (by decide) Iff.rfl, ?others⟩
  case operand => rwa [rotTailFlags, operandByte_writeFlags, written]
  case zero => exact beq_zero_iff_getLsbD.trans (forall₂_congr fun i lt => by rw [bits i lt])
  case others =>
    exact frame_writeFlags (frame_mono others (fun _ inRegs => List.mem_cons_of_mem _ inRegs) (fun _ => id) fun _ => id)
      (by simp) _ _ _ _

/-- A CB rotate or shift is what its data path is: `path v cin` for the operand `v` and the old C `cin`
(43_rotate_shift_bit.md section 2). -/
theorem cbRotateIs_of_hasBits {mk : R8 → Instr} {index : BitVec 3} {path : Byte → Bool → Shifted}
    {f : Byte → Bool → Nat → Bool} {c : Byte → Bool}
    (encoded : ∀ r, encodedAs (mk r) [0xCB, byteBAB 0 index r.bits])
    (has : ∀ v cin, (path v cin).HasBits (f v cin) (c v))
    (runs : ∀ r s, exec (mk r) s = rotOperand r (fun v => path v (s.readFlag .c)) s) :
    cbRotateIs mk index f c := by
  intro r s
  rw [runs]
  exact ⟨encoded r, faultsAtHl_andThen_readR8 r s _, fun reach => operandBecomes_rotOperand reach (has _ _)⟩

/-! ## One bit of a byte (43_rotate_shift_bit.md R228, R229) -/

/-- `1 << n`, bit by bit. -/
theorem getLsbD_oneShifted (n : BitVec 3) (i : Nat) : (1#8 <<< n.toNat).getLsbD i = decide (i = n.toNat) := by
  have inByte : n.toNat < 8 := n.isLt
  have mask := BitVec.getLsbD_twoPow (w := 8) n.toNat i
  rwa [decide_eq_true inByte, Bool.true_and, BitVec.twoPow_eq, decide_eq_decide.2 eq_comm] at mask

theorem getLsbD_clearBit (n : BitVec 3) (v : Byte) {i : Nat} (lt : i < 8) :
    (clearBit n v).getLsbD i = if i = n.toNat then false else v.getLsbD i := by
  rw [clearBit, BitVec.getLsbD_and, BitVec.getLsbD_not, getLsbD_oneShifted, decide_eq_true lt]
  split <;> simp [*]

theorem getLsbD_setBit (n : BitVec 3) (v : Byte) (i : Nat) :
    (setBit n v).getLsbD i = if i = n.toNat then true else v.getLsbD i := by
  rw [setBit, BitVec.getLsbD_or, getLsbD_oneShifted]
  split <;> simp [*]

/-- A reachable operand is rewritten to a byte with the bits `g`, and nothing else changes. -/
theorem operandBits_rewrite {r : R8} {s : State} (reach : operandReachable r s) {f : Byte → Byte} {g : Nat → Bool}
    (bits : ∀ i, i < 8 → (f (operandByte r s)).getLsbD i = g i) :
    ∃ t, (andThen (readR8 r s) fun v => done (writeR8 r (f v) s)) = .next t ∧
      (∀ i, i < 8 → (operandByte r t).getLsbD i = g i) ∧ frame (operandRegs r) [] (operandCells r s) s t := by
  obtain ⟨t, ran, written, others, -⟩ := andThen_readR8_writeR8 reach f fun _ => .next
  exact ⟨t, ran, written ▸ bits, others⟩

/-! ## The statements -/

/-- Settles O20: each rotate puts one data path of the old A, and of the old C, in A. -/
theorem accumulatorRotates : Obligations.AccumulatorRotates := by
  intro s
  exact ⟨encodedAs_encode rfl, encodedAs_encode rfl, encodedAs_encode rfl, encodedAs_encode rfl,
    ⟨_, rfl, accRotates_accRotate (hasBits_rotLeft _) s⟩, ⟨_, rfl, accRotates_accRotate (hasBits_rotRight _) s⟩,
    ⟨_, rfl, accRotates_accRotate (hasBits_shiftLeftIn _ _) s⟩,
    ⟨_, rfl, accRotates_accRotate (hasBits_shiftRightIn _ _) s⟩⟩

/-- Settles O21: the eight instructions differ in their data path alone, which is a rotate, a swap, or a shift with the
old C, 0 or (`SRA`) the operand's own bit 7 shifted in. -/
theorem cbRotatesAndShifts : Obligations.CbRotatesAndShifts :=
  ⟨cbRotateIs_of_hasBits (fun _ => encodedAs_encode rfl) (fun v _ => hasBits_rotLeft v) fun _ _ => rfl,
    cbRotateIs_of_hasBits (fun _ => encodedAs_encode rfl) (fun v _ => hasBits_rotRight v) fun _ _ => rfl,
    cbRotateIs_of_hasBits (fun _ => encodedAs_encode rfl) hasBits_shiftLeftIn fun _ _ => rfl,
    cbRotateIs_of_hasBits (fun _ => encodedAs_encode rfl) hasBits_shiftRightIn fun _ _ => rfl,
    cbRotateIs_of_hasBits (fun _ => encodedAs_encode rfl) (fun v _ => hasBits_shiftLeftIn v false) fun _ _ => rfl,
    cbRotateIs_of_hasBits (fun _ => encodedAs_encode rfl) (fun v _ => hasBits_shiftRightIn v (v.getLsbD 7))
      fun _ _ => rfl,
    cbRotateIs_of_hasBits (fun _ => encodedAs_encode rfl) (fun v _ => hasBits_swapNibbles v) fun _ _ => rfl,
    cbRotateIs_of_hasBits (fun _ => encodedAs_encode rfl) (fun v _ => hasBits_shiftRightIn v false) fun _ _ => rfl⟩

/-- Settles O22: a reachable operand is read as its byte, and only Z, N and H are written. -/
theorem bitTestWritesFlagsOnly : Obligations.BitTestWritesFlagsOnly := by
  intro n r s
  refine ⟨encodedAs_encode rfl, fun reach => ⟨_, andThen_readR8 reach _, ?flags, ?others⟩,
    faultsAtHl_andThen_readR8 r s _⟩
  case flags => exact flagsAre_writeFlag_znh s (by rw [Bool.not_eq_true']) (by decide) (by decide)
  case others =>
    exact frame_writeFlag (frame_writeFlag (frame_writeFlag (frame_refl s) (by simp) _ _) (by simp) _ _) (by simp) _ _

/-- Settles O23: both forms rewrite the operand, with one bit of it cleared or set. -/
theorem resetAndSetBit : Obligations.ResetAndSetBit := by
  intro n r s
  exact ⟨encodedAs_encode rfl, encodedAs_encode rfl,
    fun reach => ⟨operandBits_rewrite reach fun _ lt => getLsbD_clearBit n _ lt,
      operandBits_rewrite reach fun i _ => getLsbD_setBit n _ i⟩,
    faultsAtHl_andThen_readR8 r s _, faultsAtHl_andThen_readR8 r s _⟩

end Sys2Proof.Machine
end

section
/-! PROOFS. The control flow family (44_control_flow.md): the taken and untaken branches of a condition, a jump as one
write of PC, a call as a push and a return as a pop each followed by a jump, IME, the return from a call, and the seven
statements of the family. -/

namespace Sys2Proof.Machine

/-! ## Conditions (00_scope.md R14) -/

theorem ite_condHolds_taken {cc : Cond} {s : State} (taken : condMeans cc s) (o : Result) :
    (if condHolds cc s then o else .next s) = o :=
  if_pos ((condHolds_eq_true cc s).2 taken)

theorem ite_condHolds_untaken {cc : Cond} {s : State} (untaken : ¬ condMeans cc s) (o : Result) :
    (if condHolds cc s then o else .next s) = .next s :=
  if_neg fun holds => untaken ((condHolds_eq_true cc s).1 holds)

/-! ## Jumps -/

@[simp] theorem read16_pc_jumpTo (target : Word) (s : State) : (jumpTo target s).read16 .pc = target := rfl

theorem frame_jumpTo {regs : List Reg8} {slots : List Reg16} {cells : List Word} {s t : State}
    (h : frame regs slots cells s t) (hs : .pc ∈ slots) (target : Word) :
    frame regs slots cells s (jumpTo target t) :=
  frame_write_pc h hs target

theorem frame_jumpTo_self (target : Word) (s : State) : frame [] [.pc] [] s (jumpTo target s) :=
  frame_jumpTo (frame_refl s) (List.mem_singleton_self Reg16.pc) target

/-! ## Calls (44_control_flow.md R255, R260) -/

/-- Jumping after a push keeps what the push did, with PC among the slots that changed. -/
theorem pushed_jumpTo {v : Word} {s t : State} (effect : pushed v [] s t) (target : Word) :
    pushed v [.pc] s (jumpTo target t) := by
  obtain ⟨sp, lowByte, highByte, others⟩ := effect
  exact ⟨sp, lowByte, highByte, frame_jumpTo (frame_mono others (by simp) (by simp) (by simp)) (by simp) target⟩

/-- A call with room pushes the PC it starts from and jumps. -/
theorem callTo_pushed {s : State} (room : canPush s) (target : Word) :
    ∃ t, callTo target s = .next t ∧ t.read16 .pc = target ∧ pushed (s.read16 .pc) [.pc] s t := by
  obtain ⟨t, ran, effect⟩ := push_pushed room (s.read16 .pc)
  refine ⟨jumpTo target t, ?_, read16_pc_jumpTo target t, pushed_jumpTo effect target⟩
  rw [callTo, ran, andThen_ok]

/-- Whatever would have followed it, a push without room faults at its first byte without storage. -/
theorem pushFaults_andThen_push (v : Word) (s : State) (k : State → Result) :
    pushFaults s (andThen (push v s) k) := by
  constructor
  · intro low
    rw [push_error_low low, andThen_error]; rfl
  · intro low high
    rw [push_error_high low high, andThen_error]; rfl

theorem pushFaults_callTo (target : Word) (s : State) : pushFaults s (callTo target s) :=
  pushFaults_andThen_push (s.read16 .pc) s _

/-! ## Returns (44_control_flow.md R257 to R259) -/

/-- The state after a return with room: SP past the word on top of the stack, PC that word. -/
def returned (s : State) : State := jumpTo (stackTop s) (s.write16 .sp (s.read16 .sp + 2))

@[simp] theorem read16_pc_returned (s : State) : (returned s).read16 .pc = stackTop s := rfl

@[simp] theorem read16_sp_returned (s : State) : (returned s).read16 .sp = s.read16 .sp + 2 := rfl

theorem frame_returned (s : State) : frame [] [.sp, .pc] [] s (returned s) :=
  frame_jumpTo (frame_write_sp (frame_refl s) (by simp) _) (by simp) _

theorem returnThen_returned {s : State} (room : canPop s) (k : State → State) :
    returnThen k s = .next (k (returned s)) := by
  rw [returnThen, pop_stackTop room, andThen_ok]; rfl

theorem exec_ret {s : State} (room : canPop s) : exec .ret s = .next (returned s) := returnThen_returned room id

theorem exec_reti {s : State} (room : canPop s) : exec .reti s = .next ((returned s).writeIme true) :=
  returnThen_returned room fun t => t.writeIme true

/-- Whatever would have followed it, a pop without room faults at its first byte without storage. -/
theorem popFaults_andThen_pop (s : State) (k : Word × State → Result) : popFaults s (andThen (pop s) k) := by
  constructor
  · intro low
    rw [pop_error_low low, andThen_error]; rfl
  · intro low high
    rw [pop_error_high low high, andThen_error]; rfl

theorem popFaults_returnThen (k : State → State) (s : State) : popFaults s (returnThen k s) :=
  popFaults_andThen_pop s _

/-! ## IME (44_control_flow.md R258, R261, R262) -/

/-- A write of IME leaves every part of a frame but IME as it is. -/
theorem unchangedBut_writeIme {regs : List Reg8} {slots : List Reg16} {cells : List Word} {s t : State}
    (h : frame regs slots cells s t) (v : Bool) :
    (t.writeIme v).halted = s.halted ∧ UnchangedBut regs slots cells s (t.writeIme v) ∧
      keepsLowNibble s (t.writeIme v) := by
  obtain ⟨⟨reg8, sp, pc, byte, fault⟩, ⟨-, halted⟩, nibble⟩ := h
  refine ⟨halted, ⟨fun r out => ?_, sp, pc, byte, fault⟩, nibble⟩
  rw [read8_writeIme, reg8 r out]

/-! ## A call and its return (44_control_flow.md R263) -/

/-- The word a push left on the stack is the top of the stack after it. -/
theorem stackTop_of_pushed {v : Word} {slots : List Reg16} {s t : State} (effect : pushed v slots s t) :
    stackTop t = v := by
  obtain ⟨sp, lowByte, highByte, -⟩ := effect
  rw [stackTop, sp, sub_two_add_one, lowByte, highByte, combine_hi_lo]

/-- Where there was room to push there is room to pop again. -/
theorem canPop_of_pushed {v : Word} {slots : List Reg16} {s t : State} (room : canPush s)
    (effect : pushed v slots s t) : canPop t := by
  obtain ⟨sp, -⟩ := effect
  rw [canPop, sp, sub_two_add_one]
  exact room

/-- Slots that came back to their old values need not be named in a frame. -/
theorem frame_of_restored {regs : List Reg8} {slots : List Reg16} {cells : List Word} {s t : State}
    (h : frame regs slots cells s t) (sp : t.read16 .sp = s.read16 .sp) (pc : t.read16 .pc = s.read16 .pc) :
    frame regs [] cells s t := by
  obtain ⟨unchanged, rest⟩ := h
  exact ⟨⟨unchanged.reg8, fun _ => sp, fun _ => pc, unchanged.byte, unchanged.fault⟩, rest⟩

/-- A return after a call comes back to the PC and SP the call started from; only the two pushed bytes have changed. -/
theorem returned_of_pushed {s t : State} (effect : pushed (s.read16 .pc) [.pc] s t) :
    (returned t).read16 .pc = s.read16 .pc ∧ (returned t).read16 .sp = s.read16 .sp ∧
      frame [] [] [s.read16 .sp - 2, s.read16 .sp - 1] s (returned t) := by
  have pc : (returned t).read16 .pc = s.read16 .pc := stackTop_of_pushed effect
  obtain ⟨lowered, -, -, others⟩ := effect
  have sp : (returned t).read16 .sp = s.read16 .sp := by
    rw [read16_sp_returned, lowered, BitVec.sub_add_cancel]
  have both : frame [] [.sp, .pc] [s.read16 .sp - 2, s.read16 .sp - 1] s (returned t) :=
    frame_trans others (frame_mono (frame_returned t) (by simp) (by simp) (by simp))
  exact ⟨pc, sp, frame_of_restored both sp pc⟩

/-! ## The statements -/

/-- Settles O24: both forms are one jump to PC plus the signed operand, the conditional one only where it is taken. -/
theorem relativeJumps : Obligations.RelativeJumps := by
  intro cc e8 s
  have target := toNat_add_sext16 (s.read16 .pc) e8
  exact ⟨encodedAs_encode rfl, encodedAs_encode rfl, ⟨_, rfl, target, frame_jumpTo_self _ s⟩,
    fun taken => ⟨_, ite_condHolds_taken taken _, target, frame_jumpTo_self _ s⟩,
    fun untaken => ite_condHolds_untaken untaken _⟩

/-- Settles O25: all three forms are one jump, the conditional one only where it is taken. -/
theorem absoluteJumps : Obligations.AbsoluteJumps := by
  intro cc a16 s
  exact ⟨encodedAs_encode rfl, encodedAs_encode rfl, encodedAs_encode rfl,
    ⟨_, rfl, read16_pc_jumpTo a16 s, frame_jumpTo_self a16 s⟩,
    fun taken => ⟨_, ite_condHolds_taken taken _, read16_pc_jumpTo a16 s, frame_jumpTo_self a16 s⟩,
    fun untaken => ite_condHolds_untaken untaken _, ⟨_, rfl, read16_pc_jumpTo _ s, frame_jumpTo_self _ s⟩⟩

/-- Settles O26: a taken conditional call is the unconditional one, and that is a push of PC before a jump. -/
theorem callsPushTheReturnAddress : Obligations.CallsPushTheReturnAddress := by
  intro cc a16 s
  refine ⟨encodedAs_encode rfl, encodedAs_encode rfl, fun room => callTo_pushed room a16, pushFaults_callTo a16 s,
    fun taken => ?taken, fun untaken => ite_condHolds_untaken untaken _⟩
  have calls : exec (.callCcA16 cc a16) s = exec (.callA16 a16) s := ite_condHolds_taken taken _
  rw [calls]
  exact ⟨fun room => callTo_pushed room a16, pushFaults_callTo a16 s⟩

/-- Settles O27: a taken conditional return is the unconditional one, which is a pop before a jump; `RETI` writes IME
after it. -/
theorem returnsPopThePc : Obligations.ReturnsPopThePc := by
  intro cc s
  have returns (taken : condMeans cc s) : exec (.retCc cc) s = exec .ret s := ite_condHolds_taken taken _
  refine ⟨encodedAs_encode rfl, encodedAs_encode rfl, encodedAs_encode rfl, fun room => ⟨?ret, ?reti, ?retCc⟩,
    popFaults_returnThen id s, popFaults_returnThen (fun t => t.writeIme true) s, fun taken => ?faults,
    fun untaken => ite_condHolds_untaken untaken _⟩
  case ret => exact ⟨_, exec_ret room, rfl, rfl, frame_returned s⟩
  case reti => exact ⟨_, exec_reti room, rfl, rfl, rfl, unchangedBut_writeIme (frame_returned s) true⟩
  case retCc => exact fun taken => ⟨_, (returns taken).trans (exec_ret room), rfl, rfl, frame_returned s⟩
  case faults => rw [returns taken]; exact popFaults_returnThen id s

/-- Settles O28: `RST` is a call of eight times its literal. -/
theorem restartCallsItsVector : Obligations.RestartCallsItsVector := by
  intro n s
  refine ⟨encodedAs_encode rfl, fun room => ?_, pushFaults_callTo _ s⟩
  obtain ⟨t, ran, pc, effect⟩ := callTo_pushed room (rstTarget n)
  exact ⟨t, ran, by rw [pc, toNat_rstTarget], effect⟩

/-- Settles O29: each form is one write of IME. -/
theorem interruptEnableWrites : Obligations.InterruptEnableWrites := by
  intro s
  exact ⟨encodedAs_encode rfl, encodedAs_encode rfl, ⟨_, rfl, rfl, unchangedBut_writeIme (frame_refl s) false⟩,
    ⟨_, rfl, rfl, unchangedBut_writeIme (frame_refl s) true⟩⟩

/-- Settles O30: the pushed PC is the top of the stack that the return pops. -/
theorem callThenReturnComesBack : Obligations.CallThenReturnComesBack := by
  intro a16 n s room
  constructor
  · obtain ⟨t, called, -, effect⟩ := callTo_pushed room a16
    exact ⟨t, _, called, exec_ret (canPop_of_pushed room effect), returned_of_pushed effect⟩
  · obtain ⟨t, called, -, effect⟩ := callTo_pushed room (rstTarget n)
    obtain ⟨pc, sp, others⟩ := returned_of_pushed effect
    exact ⟨t, _, called, exec_reti (canPop_of_pushed room effect), pc, sp, rfl,
      unchangedBut_writeIme others true⟩

end Sys2Proof.Machine
end

section
/-! PROOFS. The stack family (45_stack.md): which registers a write of a pair leaves, a pop as a write of SP and of
its pair, a pop after a push, and the three statements of the family. -/

namespace Sys2Proof.Machine

/-! ## Writes of a pair -/

/-- A 16-bit write leaves every 8-bit register that is no half of its slot. -/
theorem read8_write16_of_notMem_halvesOf {r : Reg8} {slot : Reg16} (out : r ∉ halvesOf slot) (s : State) (w : Word) :
    (s.write16 slot w).read8 r = s.read8 r := by
  cases slot with
  | sp => exact read8_write16_sp s w r
  | pc => exact read8_write16_pc s w r
  | af =>
    obtain ⟨notA, notF⟩ := not_or.1 (mt List.mem_pair.2 out)
    rw [read8_write16_af, if_neg notA, if_neg notF]
  | bc =>
    obtain ⟨notB, notC⟩ := not_or.1 (mt List.mem_pair.2 out)
    rw [read8_write16_bc, if_neg notB, if_neg notC]
  | de =>
    obtain ⟨notD, notE⟩ := not_or.1 (mt List.mem_pair.2 out)
    rw [read8_write16_de, if_neg notD, if_neg notE]
  | hl =>
    obtain ⟨notH, notL⟩ := not_or.1 (mt List.mem_pair.2 out)
    rw [read8_write16_hl, if_neg notH, if_neg notL]

theorem slotOfR16Stk_ne_sp (p : R16Stk) : slotOfR16Stk p ≠ .sp := by cases p <;> decide

theorem slotOfR16Stk_ne_pc (p : R16Stk) : slotOfR16Stk p ≠ .pc := by cases p <;> decide

theorem slotOfR16Stk_eq_af {p : R16Stk} : slotOfR16Stk p = .af ↔ p = .af := by cases p <;> decide

/-- A write of the pair an R16STK selector names changes its two halves only (10_state.md R33). AF is among the pairs,
so this speaks of `UnchangedBut` and not of `frame`, which keeps F[3:0]. -/
theorem unchangedBut_writeR16Stk {slots : List Reg16} {cells : List Word} {s t : State} (p : R16Stk)
    (h : UnchangedBut [] slots cells s t) (w : Word) :
    UnchangedBut (halvesOf (slotOfR16Stk p)) slots cells s (t.write16 (slotOfR16Stk p) w) where
  reg8 r out := (read8_write16_of_notMem_halvesOf out t w).trans (h.reg8 r List.not_mem_nil)
  sp out := by rw [read16_write16, if_neg (slotOfR16Stk_ne_sp p).symm, h.sp out]
  pc out := by rw [read16_write16, if_neg (slotOfR16Stk_ne_pc p).symm, h.pc out]
  byte a out := (byteAt_write16 t _ w a).trans (h.byte a out)
  fault := (fault_write16 t _ w).trans h.fault

/-! ## Pops (45_stack.md R281) -/

/-- The state after a pop with room: SP past the word on top of the stack, the pair that word. -/
def popped (p : R16Stk) (s : State) : State :=
  (s.write16 .sp (s.read16 .sp + 2)).write16 (slotOfR16Stk p) (stackTop s)

theorem read16_sp_popped (p : R16Stk) (s : State) : (popped p s).read16 .sp = s.read16 .sp + 2 := by
  rw [popped, read16_write16, if_neg (slotOfR16Stk_ne_sp p).symm]; rfl

theorem read16_popped (p : R16Stk) (s : State) :
    (popped p s).read16 (slotOfR16Stk p) = if p = .af then stackTop s &&& 0xFFF0 else stackTop s := by
  rw [popped, read16_write16, if_pos rfl]
  simp only [slotOfR16Stk_eq_af]

/-- After updates that kept all but SP and `cells`, a pop changes the halves of its pair and SP as well, and F[3:0] only
where the pair is AF. -/
theorem popped_changes {cells : List Word} {s t : State} (h : frame [] [.sp] cells s t) (p : R16Stk) :
    UnchangedBut (halvesOf (slotOfR16Stk p)) [.sp] cells s (popped p t) ∧ keepsControl s (popped p t) ∧
      (p ≠ .af → keepsLowNibble s (popped p t)) := by
  obtain ⟨unchanged, ⟨ime, halted⟩, nibble⟩ := frame_write_sp h (List.mem_singleton_self _) (t.read16 .sp + 2)
  refine ⟨unchangedBut_writeR16Stk p unchanged _, ⟨?ime, ?halted⟩, fun other i low => ?nibble⟩
  case ime => rw [popped, ime_write16, ime]
  case halted => rw [popped, halted_write16, halted]
  case nibble => rw [popped, af_write16 _ _ _ (mt slotOfR16Stk_eq_af.1 other), nibble i low]

/-! ## A push and its pop (45_stack.md R282) -/

/-- A pop after a push finds SP and the pushed word again. -/
theorem popped_of_pushed {v : Word} {s t : State} (effect : pushed v [] s t) (q : R16Stk) :
    (popped q t).read16 .sp = s.read16 .sp ∧
      (popped q t).read16 (slotOfR16Stk q) = if q = .af then v &&& 0xFFF0 else v := by
  have top := stackTop_of_pushed effect
  obtain ⟨lowered, -⟩ := effect
  exact ⟨by rw [read16_sp_popped, lowered, BitVec.sub_add_cancel], by rw [read16_popped, top]⟩

/-- SP need not be named among what changed where it came back to its old value. -/
theorem unchangedBut_of_sp_restored {regs : List Reg8} {cells : List Word} {s t : State}
    (h : UnchangedBut regs [.sp] cells s t) (sp : t.read16 .sp = s.read16 .sp) : UnchangedBut regs [] cells s t where
  reg8 := h.reg8
  sp _ := sp
  pc _ := h.pc (by decide)
  byte := h.byte
  fault := h.fault

/-! ## The statements -/

/-- Settles O31: the instruction is one push of its pair, and for AF the byte at the new SP is F. -/
theorem pushStoresThePair : Obligations.PushStoresThePair := by
  intro p s
  refine ⟨encodedAs_encode rfl, fun room => ?stored, pushFaults_andThen_push _ s _⟩
  obtain ⟨t, ran, effect⟩ := exec_pushR16stk room p
  have ⟨sp, lowByte, _, _⟩ := effect
  refine ⟨t, ran, effect, ?_⟩
  rintro rfl clear
  rw [sp, lowByte]
  exact read8_f_and_lowNibble clear

/-- Settles O32: the pair is written with the top of the stack, which AF takes but for bits 3:0. -/
theorem popLoadsThePair : Obligations.PopLoadsThePair := by
  intro p s
  refine ⟨encodedAs_encode rfl, fun room => ?loaded, popFaults_andThen_pop s _⟩
  obtain ⟨unchanged, control, nibble⟩ := popped_changes (frame_refl s) p
  refine ⟨popped p s, exec_popR16stk room p, read16_sp_popped p s, fun other => ⟨?pair, nibble other⟩, ?af, unchanged,
    control⟩
  case pair => rw [read16_popped, if_neg other]
  case af =>
    rintro rfl
    exact ⟨read8_write16_af _ _ .a, read8_write16_af _ _ .f⟩

/-- Settles O33: the pushed pair is the top of the stack that the pop loads, and the pop moves SP back. -/
theorem pushThenPopCopiesThePair : Obligations.PushThenPopCopiesThePair := by
  intro p q s room
  obtain ⟨t, ran, effect⟩ := exec_pushR16stk room p
  have popRoom := canPop_of_pushed room effect
  obtain ⟨sp, copied⟩ := popped_of_pushed effect q
  obtain ⟨-, -, -, others⟩ := effect
  obtain ⟨unchanged, control, nibble⟩ := popped_changes others q
  exact ⟨t, popped q t, ran, exec_popR16stk popRoom q, sp, copied, unchangedBut_of_sp_restored unchanged sp, control,
    nibble⟩

end Sys2Proof.Machine
end

section
/-! PROOFS. The DAA and miscellaneous family (46_daa_misc.md): `DAA` as an adjustment of numbers, its tests on packed
BCD as decimal carries and borrows, the CB page, one-byte instructions as steps, and six statements of the family. -/

namespace Sys2Proof.Machine

/-! ## DAA (46_daa_misc.md R290) -/

theorem toNat_lowNibble (v : Byte) : (v &&& 0x0F).toNat = v.toNat % 16 := Nat.and_two_pow_sub_one_eq_mod v.toNat 4

/-- The two adjustments have no bit in common, so together they are their sum. -/
theorem toNat_daaAdjust (a : Byte) (n h c : Bool) :
    (daaAdjust a n h c).toNat = (if daaLow a n h then 0x06 else 0) + (if daaHigh a n c then 0x60 else 0) := by
  unfold daaAdjust
  split <;> split <;> rfl

theorem toNat_daaValue_after_add (a : Byte) (h c : Bool) :
    (daaValue a false h c).toNat =
      (a.toNat + (if daaLow a false h then 0x06 else 0) + (if daaHigh a false c then 0x60 else 0)) % 256 :=
  calc
    (a + daaAdjust a false h c).toNat = (a.toNat + (daaAdjust a false h c).toNat) % 256 := BitVec.toNat_add _ _
    _ = _ := by rw [toNat_daaAdjust, Nat.add_assoc]

theorem toNat_daaValue_after_sub (a : Byte) (h c : Bool) :
    (daaValue a true h c).toNat =
      (a.toNat + 256 - (if daaLow a true h then 0x06 else 0) - (if daaHigh a true c then 0x60 else 0)) % 256 := by
  have difference : (a - daaAdjust a true h c).toNat = (256 - (daaAdjust a true h c).toNat + a.toNat) % 256 :=
    BitVec.toNat_sub _ _
  have small := toNat_daaAdjust a true h c
  rw [daaValue, if_pos rfl, difference, small]
  split <;> split <;> omega

theorem daaLow_after_add (a : Byte) (h : Bool) : daaLow a false h = (h || decide (a.toNat % 16 > 9)) := by
  rw [daaLow, toNat_lowNibble]; rfl

theorem daaLow_after_sub (a : Byte) (h : Bool) : daaLow a true h = h := Bool.or_false h

theorem daaHigh_after_sub (a : Byte) (c : Bool) : daaHigh a true c = c := Bool.or_false c

/-- The state after `DAA`. -/
def adjusted (s : State) : State :=
  let r := daaValue (s.read8 .a) (s.readFlag .n) (s.readFlag .h) (s.readFlag .c)
  (((s.write8 .a r).writeFlag .z (r == 0)).writeFlag .h false).writeFlag .c
    (daaHigh (s.read8 .a) (s.readFlag .n) (s.readFlag .c))

theorem exec_daa (s : State) : exec .daa s = .next (adjusted s) := rfl

theorem read8_a_adjusted (s : State) :
    (adjusted s).read8 .a = daaValue (s.read8 .a) (s.readFlag .n) (s.readFlag .h) (s.readFlag .c) := by
  simp [adjusted]

theorem flagsAre_adjusted (s : State) :
    flagsAre (adjusted s) ((adjusted s).read8 .a = 0) (was s .n) False
      (daaHigh (s.read8 .a) (s.readFlag .n) (s.readFlag .c) = true) := by
  rw [read8_a_adjusted]
  simp [flagsAre, was, adjusted]

theorem frame_adjusted (s : State) : frame [.a, .f] [] [] s (adjusted s) := by
  unfold adjusted
  iterate 3 refine frame_writeFlag ?_ (by simp) _ _
  exact frame_write8 (frame_refl s) (by simp) (by decide) _

/-! ## Packed BCD (46_daa_misc.md R291) -/

theorem toNat_bcd {x : Nat} (twoDigits : x < 100) : (bcd x).toNat = x / 10 * 16 + x % 10 :=
  Nat.mod_eq_of_lt (by omega)

theorem bcd_eq_zero_iff {x : Nat} (twoDigits : x < 100) : bcd x = 0 ↔ x = 0 := by
  have number : bcd x = 0 ↔ x / 10 * 16 + x % 10 = 0 := by rw [← toNat_bcd twoDigits]; exact BitVec.toNat_inj.symm
  rw [number]
  omega

/-- After an addition of packed BCD, `DAA`'s test for the low adjustment is the decimal carry out of the low digits. -/
theorem lowTest_iff_digitCarry {x y c : Nat} (carryIn : c ≤ 1) :
    ((x / 10 * 16 + x % 10) % 16 + (y / 10 * 16 + y % 10) % 16 + c > 0xF ∨
      (x / 10 * 16 + x % 10 + (y / 10 * 16 + y % 10) + c) % 256 % 16 > 9) ↔ x % 10 + y % 10 + c ≥ 10 := by
  omega

/-- After an addition of packed BCD, `DAA`'s test for the high adjustment is the decimal carry out of the whole sum. -/
theorem highTest_iff_decimalCarry {x y c : Nat} (hx : x < 100) (hy : y < 100) (carryIn : c ≤ 1) :
    (x / 10 * 16 + x % 10 + (y / 10 * 16 + y % 10) + c > 0xFF ∨
      (x / 10 * 16 + x % 10 + (y / 10 * 16 + y % 10) + c) % 256 > 0x99) ↔ x + y + c ≥ 100 :=
  calc
    _ ↔ x / 10 * 16 + x % 10 + (y / 10 * 16 + y % 10) + c > 0x99 := by omega
    _ ↔ x + y + c ≥ 100 := by
      rcases Nat.lt_trichotomy (x / 10 + y / 10) 9 with below | nine | above <;> omega

/-- A binary sum of packed BCD, with 6 added for each decimal carry, is the packed BCD of the decimal sum. -/
theorem adjustedSum_eq_bcd {x y c : Nat} (hx : x < 100) (hy : y < 100) (carryIn : c ≤ 1) :
    ((x / 10 * 16 + x % 10 + (y / 10 * 16 + y % 10) + c) % 256 + (if x % 10 + y % 10 + c ≥ 10 then 0x06 else 0) +
      (if x + y + c ≥ 100 then 0x60 else 0)) % 256 = (bcd ((x + y + c) % 100)).toNat := by
  rw [toNat_bcd (Nat.mod_lt _ (by decide))]
  split <;> split <;> omega

/-- A binary difference of packed BCD, with 6 subtracted for each decimal borrow, is the packed BCD of the decimal
difference. -/
theorem adjustedDifference_eq_bcd {x y c : Nat} (hx : x < 100) (hy : y < 100) (carryIn : c ≤ 1) :
    ((x / 10 * 16 + x % 10 + 512 - (y / 10 * 16 + y % 10) - c) % 256 + 256 -
      (if x % 10 < y % 10 + c then 0x06 else 0) - (if x < y + c then 0x60 else 0)) % 256 =
      (bcd ((x + 200 - y - c) % 100)).toNat := by
  rw [toNat_bcd (Nat.mod_lt _ (by decide))]
  split <;> split <;> omega

/-- Subtracting packed BCD, the borrow out of the low nibble is the decimal borrow out of the low digit. -/
theorem lowBorrow_iff_digitBorrow {x y c : Nat} :
    (x / 10 * 16 + x % 10) % 16 < (y / 10 * 16 + y % 10) % 16 + c ↔ x % 10 < y % 10 + c := by
  omega

/-- Subtracting packed BCD, the borrow out of the byte is the decimal borrow. -/
theorem byteBorrow_iff_decimalBorrow {x y c : Nat} (carryIn : c ≤ 1) :
    x / 10 * 16 + x % 10 < y / 10 * 16 + y % 10 + c ↔ x < y + c := by
  omega

/-- Where A is the BCD of `k` modulo 100 and `DAA` wrote the flags, they tell a zero and the decimal carry. -/
theorem decimal_of_flagsAre {t : State} {k : Nat} {n carry : Prop} (value : (t.read8 .a).toNat = (bcd (k % 100)).toNat)
    (flags : flagsAre t (t.read8 .a = 0) n False carry) :
    t.read8 .a = bcd (k % 100) ∧ (t.readFlag .c = true ↔ carry) ∧ (t.readFlag .z = true ↔ k % 100 = 0) ∧
      t.readFlag .h = false := by
  obtain ⟨z, -, h, c⟩ := flags
  have digits := BitVec.eq_of_toNat_eq value
  exact ⟨digits, c, by rw [z, digits, bcd_eq_zero_iff (Nat.mod_lt _ (by decide))], Bool.eq_false_iff.2 h.1⟩

/-! ## The CB page (46_daa_misc.md R296) -/

/-- The row with a second byte does what the instruction does that the second byte selects. -/
theorem exec_prefixCb (cb : Byte) (s : State) : exec (.prefixCb cb) s = exec (decodeCb cb) s := by
  change execPrefixCb cb s = _
  unfold execPrefixCb decodeCb
  generalize fieldBlock cb = group
  generalize fieldA cb = index
  match group with
  | 0 =>
    match index with
    | 0 | 1 | 2 | 3 | 4 | 5 | 6 | 7 => rfl
  | 1 | 2 | 3 => rfl

theorem rotOperand_completes {r : R8} {s : State} (reach : operandReachable r s) (path : Byte → Shifted) :
    ∃ t, rotOperand r path s = .next t := by
  obtain ⟨_, ran, -⟩ := andThen_readR8_writeR8 reach (fun v => (path v).value) fun v t =>
    .next (rotTailFlags (path v) t)
  exact ⟨_, ran⟩

theorem rewriteOperand_completes {r : R8} {s : State} (reach : operandReachable r s) (f : Byte → Byte) :
    ∃ t, (andThen (readR8 r s) fun v => done (writeR8 r (f v) s)) = .next t := by
  obtain ⟨t, ran, -⟩ := andThen_readR8_writeR8 reach f fun _ => .next
  exact ⟨t, ran⟩

/-- Every CB row completes where its operand can be reached. -/
theorem execPrefixCb_completes {cb : Byte} {s : State} (reach : operandReachable (R8.ofBits (fieldB cb)) s) :
    ∃ t, execPrefixCb cb s = .next t := by
  unfold execPrefixCb
  split
  · split <;> exact rotOperand_completes reach _
  · exact ⟨_, andThen_readR8 reach _⟩
  · exact rewriteOperand_completes reach _
  · exact rewriteOperand_completes reach _

/-! ## One-byte instructions -/

/-- A running machine whose PC is at a one-byte instruction executes it with PC past the byte, and fetches no other. -/
theorem step_single {i : Instr} {s : State} (run : running s) (stored : isStorage (s.read16 .pc) = true)
    (first : decodeFirst (s.byteAt (s.read16 .pc)) = some (.op i)) :
    step s = exec i (s.write16 .pc (s.read16 .pc + 1)) := by
  obtain ⟨noFault, notHalted⟩ := run
  have fetched : fetchInstr s = .ok (i, s.write16 .pc (s.read16 .pc + 1)) := by
    simp only [fetchInstr, fetch8_ok stored, first]
  simp only [step, noFault, notHalted, fetched]
  rfl

/-! ## HALT (46_daa_misc.md R295) -/

theorem unchangedBut_writeHalted (s : State) (v : Bool) : UnchangedBut [] [] [] s (s.writeHalted v) where
  reg8 r _ := read8_writeHalted s v r
  sp _ := rfl
  pc _ := rfl
  byte _ _ := rfl
  fault := rfl

theorem step_of_halted {s : State} (noFault : s.fault = none) (halted : s.halted = true) : step s = .next s := by
  simp only [step, noFault, halted, if_true]

/-- Without a wake-up event the tick of a halted machine is idle. -/
theorem tick_of_halted {s : State} {p : TickParams} (noWake : p.haltWake = false) (noFault : s.fault = none)
    (halted : s.halted = true) : tick p s = .idle s p.haltIdle := by
  have asleep : s.wakened p = s := if_neg (Bool.eq_false_iff.1 noWake)
  simp only [tick, noFault, asleep, halted, if_true]

/-! ## Bytes that are no instruction (46_daa_misc.md R297, R298) -/

/-- `op` is a byte that is no instruction, and `i` is its row. -/
structure NoInstructionRow (i : Instr) (op : Byte) : Prop where
  encoded : encodedAs i [op]
  first : decodeFirst op = some (.op i)
  raises : ∀ s, exec i s = raiseDecode op s

theorem NoInstructionRow.step {i : Instr} {op : Byte} {s : State} (row : NoInstructionRow i op) (run : running s)
    (stored : isStorage (s.read16 .pc) = true) (byte : s.byteAt (s.read16 .pc) = op) :
    step s = .fault (.decodeFault op (s.read16 .pc) (s.write16 .pc (s.read16 .pc + 1))) := by
  rw [step_single run stored (byte ▸ row.first), row.raises, raiseDecode]
  congr 2
  exact BitVec.add_sub_cancel _ 1

/-! ## The statements -/

/-- Settles O34: the two tests of the value drop out after a subtraction, and the two adjustments are 6 and 0x60 as
numbers. -/
theorem decimalAdjust : Obligations.DecimalAdjust := by
  intro s
  have flags := flagsAre_adjusted s
  have value := congrArg BitVec.toNat (read8_a_adjusted s)
  refine ⟨encodedAs_encode rfl, adjusted s, exec_daa s, frame_adjusted s, ?added, ?subtracted⟩
  case added =>
    rintro added _ _ rfl rfl
    have n : s.readFlag .n = false := Bool.eq_false_iff.2 added
    rw [n] at flags value
    rw [toNat_daaValue_after_add, daaLow_after_add] at value
    refine ⟨value, ?_⟩
    simpa [was, n, daaHigh] using flags
  case subtracted =>
    rintro subtracted _ _ rfl rfl
    have n : s.readFlag .n = true := subtracted
    rw [n] at flags value
    rw [toNat_daaValue_after_sub, daaLow_after_sub, daaHigh_after_sub] at value
    refine ⟨value, ?_⟩
    simpa [was, n, daaHigh_after_sub] using flags

/-- Settles O35: `NOP` is the identity; `SCF` and `CCF` write N, H and C and leave Z. -/
theorem nopScfCcf : Obligations.NopScfCcf := by
  intro s
  have writesF (n h c : Bool) :
      frame [.f] [] [] s (((s.writeFlag .n n).writeFlag .h h).writeFlag .c c) := by
    iterate 3 refine frame_writeFlag ?_ (by simp) _ _
    exact frame_refl s
  exact ⟨encodedAs_encode rfl, encodedAs_encode rfl, encodedAs_encode rfl, rfl,
    ⟨_, rfl, flagsAre_writeFlag_nhc s (by decide) (by decide) (by decide), writesF _ _ _⟩,
    ⟨_, rfl, flagsAre_writeFlag_nhc s (by decide) (by decide) (by simp [was]), writesF _ _ _⟩⟩

/-- Settles O36: `HALT` is one write of `halted`, and a halted machine neither fetches nor wakes. -/
theorem haltIsForEver : Obligations.HaltIsForEver := by
  intro s faultState
  exact ⟨encodedAs_encode rfl, ⟨_, rfl, rfl, rfl, unchangedBut_writeHalted s true, fun _ _ => rfl⟩,
    fun noFault halted => ⟨step_of_halted noFault halted, tick_of_halted rfl noFault halted⟩⟩

/-- Settles O37: each byte is the whole encoding of its row, and the row raises DecodeFault with the byte. -/
theorem bytesThatAreNoInstruction : Obligations.BytesThatAreNoInstruction := by
  intro i op s listed
  have row : NoInstructionRow i op := by
    simp only [List.mem_cons, Prod.mk.injEq, List.not_mem_nil, or_false] at listed
    rcases listed with ⟨rfl, rfl⟩ | ⟨rfl, rfl⟩ | ⟨rfl, rfl⟩ | ⟨rfl, rfl⟩ | ⟨rfl, rfl⟩ | ⟨rfl, rfl⟩ | ⟨rfl, rfl⟩ |
      ⟨rfl, rfl⟩ | ⟨rfl, rfl⟩ | ⟨rfl, rfl⟩ | ⟨rfl, rfl⟩ | ⟨rfl, rfl⟩
    all_goals exact ⟨encodedAs_encode rfl, rfl, fun _ => rfl⟩
  exact ⟨row.encoded, row.raises s, row.step⟩

/-- Settles O38: both read the same fields of the second byte, and every row of the CB page completes where its operand
can be reached. -/
theorem prefixRunsTheSelectedInstruction : Obligations.PrefixRunsTheSelectedInstruction := by
  intro cb rest s
  refine ⟨rfl, decode_encode_prefixCb cb rest, exec_prefixCb cb s, fun reach => ?_⟩
  obtain ⟨t, ran⟩ := execPrefixCb_completes reach
  exact ⟨t, ran, (exec_prefixCb cb s).symm.trans ran⟩

/-- Settles O39: `DAA` finds its tests to be the decimal carries or borrows of the digits, and adjusts for each. -/
theorem daaMakesAdcAndSbcDecimal : Obligations.DaaMakesAdcAndSbcDecimal := by
  intro x y s hx hy isX
  have cin : (s.readFlag .c).toNat ≤ 1 := Bool.toNat_le _
  constructor
  · obtain ⟨sum, ⟨-, n, h, c⟩, -⟩ := addsToA_aluAdd (bcd y) (s.readFlag .c) s
    obtain ⟨-, t, ran, -, added, -⟩ := decimalAdjust (aluAdd (bcd y) (s.readFlag .c) s)
    obtain ⟨value, flags⟩ := added n.1 _ _ rfl rfl
    rw [isX, toNat_bcd hx, toNat_bcd hy] at sum h c
    simp only [was, Bool.or_eq_true, decide_eq_true_eq, h, c, sum, lowTest_iff_digitCarry cin,
      highTest_iff_decimalCarry hx hy cin, adjustedSum_eq_bcd hx hy cin] at value flags
    exact ⟨_, t, rfl, ran, decimal_of_flagsAre value flags⟩
  · obtain ⟨difference, ⟨-, n, h, c⟩, -⟩ := subtractsFromA_aluSub (bcd y) (s.readFlag .c) s
    obtain ⟨-, t, ran, -, -, subtracted⟩ := decimalAdjust (aluSub (bcd y) (s.readFlag .c) s)
    obtain ⟨value, flags⟩ := subtracted (n.2 trivial) _ _ rfl rfl
    rw [isX, toNat_bcd hx, toNat_bcd hy] at difference h c
    simp only [was, h, c, difference, lowBorrow_iff_digitBorrow, byteBorrow_iff_decimalBorrow cin,
      adjustedDifference_eq_bcd hx hy cin] at value flags
    exact ⟨_, t, rfl, ran, decimal_of_flagsAre value flags⟩

end Sys2Proof.Machine
end

section
/-! PROOFS. The noninterference of N and H (46_daa_misc.md R291): what two states that agree but for N and H read alike,
that the same update, the same operation and the same instruction keep them in agreement, and the statement. -/

namespace Sys2Proof.Machine

/-! ## Two states that agree but for N and H -/

section Agree

variable {s s' : State}

/-- They are one state with two words in AF, which differ in bits 5 and 6 at most. -/
theorem agreeButNH_iff : agreeButNH s s' ↔
    ∃ w : Word, s' = { s with af := w } ∧ ∀ i, i ≠ 5 → i ≠ 6 → w.getLsbD i = s.af.getLsbD i := by
  constructor
  · rintro ⟨same, bits⟩
    exact ⟨s'.af, same, bits⟩
  · rintro ⟨w, rfl, bits⟩
    exact ⟨rfl, bits⟩

theorem agreeButNH.read16 (agree : agreeButNH s s') {r : Reg16} (ne : r ≠ .af) : s'.read16 r = s.read16 r := by
  obtain ⟨w, rfl, -⟩ := agreeButNH_iff.1 agree
  cases r with
  | af => exact absurd rfl ne
  | _ => rfl

theorem agreeButNH.read8 (agree : agreeButNH s s') {r : Reg8} (ne : r ≠ .f) : s'.read8 r = s.read8 r := by
  obtain ⟨w, rfl, bits⟩ := agreeButNH_iff.1 agree
  cases r with
  | a =>
    refine BitVec.eq_of_getLsbD_eq fun i _ => ?_
    simp only [State.read8, getLsbD_hi]
    rw [bits (8 + i) (by omega) (by omega)]
  | f => exact absurd rfl ne
  | _ => rfl

theorem agreeButNH.readFlag (agree : agreeButNH s s') {f : Flag} (notN : f ≠ .n) (notH : f ≠ .h) :
    s'.readFlag f = s.readFlag f := by
  obtain ⟨-, bits⟩ := agree
  cases f with
  | z => exact bits 7 (by decide) (by decide)
  | c => exact bits 4 (by decide) (by decide)
  | n => exact absurd rfl notN
  | h => exact absurd rfl notH

theorem agreeButNH.byteAt (agree : agreeButNH s s') (a : Word) : s'.byteAt a = s.byteAt a := by
  obtain ⟨w, rfl, -⟩ := agreeButNH_iff.1 agree
  rfl

theorem agreeButNH.condHolds (agree : agreeButNH s s') (cc : Cond) :
    Machine.condHolds cc s' = Machine.condHolds cc s := by
  cases cc <;> simp [Machine.condHolds, agree.readFlag]

theorem agreeButNH.addrOfR16Mem (agree : agreeButNH s s') (p : R16Mem) :
    Machine.addrOfR16Mem p s' = Machine.addrOfR16Mem p s := by
  cases p <;> simp [Machine.addrOfR16Mem, agree.read16]

/-! ## The same update of both -/

theorem agreeButNH.write8 (agree : agreeButNH s s') {r : Reg8} (ne : r ≠ .f) (v : Byte) :
    agreeButNH (s.write8 r v) (s'.write8 r v) := by
  obtain ⟨w, rfl, bits⟩ := agreeButNH_iff.1 agree
  cases r with
  | a =>
    refine ⟨rfl, fun i not5 not6 => ?_⟩
    simp only [State.write8, getLsbD_combine, getLsbD_lo]
    rw [bits i not5 not6]
  | f => exact absurd rfl ne
  | _ => exact ⟨rfl, bits⟩

theorem agreeButNH.write16 (agree : agreeButNH s s') (r : Reg16) (v : Word) :
    agreeButNH (s.write16 r v) (s'.write16 r v) := by
  obtain ⟨w, rfl, bits⟩ := agreeButNH_iff.1 agree
  cases r with
  | af => exact ⟨rfl, fun _ _ _ => rfl⟩
  | _ => exact ⟨rfl, bits⟩

theorem agreeButNH.writeFlag (agree : agreeButNH s s') (f : Flag) (v : Bool) :
    agreeButNH (s.writeFlag f v) (s'.writeFlag f v) := by
  obtain ⟨w, rfl, bits⟩ := agreeButNH_iff.1 agree
  refine ⟨rfl, fun i not5 not6 => ?_⟩
  by_cases lt : i < 16
  · rw [getLsbD_af_writeFlag _ _ _ _ lt, getLsbD_af_writeFlag _ _ _ _ lt, bits i not5 not6]
  · rw [BitVec.getLsbD_of_ge _ _ (by omega), BitVec.getLsbD_of_ge _ _ (by omega)]

theorem agreeButNH.writeFlags (agree : agreeButNH s s') (z n h c : Bool) :
    agreeButNH (s.writeFlags z n h c) (s'.writeFlags z n h c) :=
  (((agree.writeFlag .z z).writeFlag .n n).writeFlag .h h).writeFlag .c c

theorem agreeButNH.putByte (agree : agreeButNH s s') (a : Word) (v : Byte) :
    agreeButNH (s.putByte a v) (s'.putByte a v) := by
  obtain ⟨w, rfl, bits⟩ := agreeButNH_iff.1 agree
  exact ⟨rfl, bits⟩

theorem agreeButNH.writeIme (agree : agreeButNH s s') (v : Bool) : agreeButNH (s.writeIme v) (s'.writeIme v) := by
  obtain ⟨w, rfl, bits⟩ := agreeButNH_iff.1 agree
  exact ⟨rfl, bits⟩

theorem agreeButNH.writeHalted (agree : agreeButNH s s') (v : Bool) :
    agreeButNH (s.writeHalted v) (s'.writeHalted v) := by
  obtain ⟨w, rfl, bits⟩ := agreeButNH_iff.1 agree
  exact ⟨rfl, bits⟩

theorem agreeButNH.write8_a_writeFlags (agree : agreeButNH s s') (r : Byte) (z n h c : Bool) :
    agreeButNH ((s.write8 .a r).writeFlags z n h c) ((s'.write8 .a r).writeFlags z n h c) :=
  (agree.write8 (by decide) r).writeFlags z n h c

theorem agreeButNH.aluAdd (agree : agreeButNH s s') (b : Byte) (cin : Bool) :
    agreeButNH (Machine.aluAdd b cin s) (Machine.aluAdd b cin s') := by
  rw [Machine.aluAdd, Machine.aluAdd, agree.read8 (by decide)]
  exact agree.write8_a_writeFlags _ _ _ _ _

theorem agreeButNH.aluCompare (agree : agreeButNH s s') (b : Byte) (cin : Bool) :
    agreeButNH (Machine.aluCompare b cin s) (Machine.aluCompare b cin s') := by
  rw [Machine.aluCompare, Machine.aluCompare, agree.read8 (by decide)]
  exact agree.writeFlags _ _ _ _

theorem agreeButNH.aluSub (agree : agreeButNH s s') (b : Byte) (cin : Bool) :
    agreeButNH (Machine.aluSub b cin s) (Machine.aluSub b cin s') := by
  rw [Machine.aluSub, Machine.aluSub, agree.read8 (by decide)]
  exact (agree.aluCompare b cin).write8 (by decide) _

theorem agreeButNH.aluAnd (agree : agreeButNH s s') (b : Byte) :
    agreeButNH (Machine.aluAnd b s) (Machine.aluAnd b s') := by
  rw [Machine.aluAnd, Machine.aluAnd, agree.read8 (by decide)]
  exact agree.write8_a_writeFlags _ _ _ _ _

theorem agreeButNH.aluOr (agree : agreeButNH s s') (b : Byte) :
    agreeButNH (Machine.aluOr b s) (Machine.aluOr b s') := by
  rw [Machine.aluOr, Machine.aluOr, agree.read8 (by decide)]
  exact agree.write8_a_writeFlags _ _ _ _ _

theorem agreeButNH.aluXor (agree : agreeButNH s s') (b : Byte) :
    agreeButNH (Machine.aluXor b s) (Machine.aluXor b s') := by
  rw [Machine.aluXor, Machine.aluXor, agree.read8 (by decide)]
  exact agree.write8_a_writeFlags _ _ _ _ _

theorem agreeButNH.incFlags (agree : agreeButNH s s') (v : Byte) :
    agreeButNH (Machine.incFlags v s) (Machine.incFlags v s') :=
  ((agree.writeFlag _ _).writeFlag _ _).writeFlag _ _

theorem agreeButNH.decFlags (agree : agreeButNH s s') (v : Byte) :
    agreeButNH (Machine.decFlags v s) (Machine.decFlags v s') :=
  ((agree.writeFlag _ _).writeFlag _ _).writeFlag _ _

theorem agreeButNH.bitFlags (agree : agreeButNH s s') (n : BitVec 3) (v : Byte) :
    agreeButNH (Machine.bitFlags n v s) (Machine.bitFlags n v s') :=
  ((agree.writeFlag _ _).writeFlag _ _).writeFlag _ _

theorem agreeButNH.addToHl (agree : agreeButNH s s') (r : Word) :
    agreeButNH (Machine.addToHl r s) (Machine.addToHl r s') := by
  rw [Machine.addToHl, Machine.addToHl, agree.read16 (by decide)]
  exact (((agree.write16 .hl _).writeFlag _ _).writeFlag _ _).writeFlag _ _

theorem agreeButNH.stepR16Mem (agree : agreeButNH s s') (p : R16Mem) :
    agreeButNH (Machine.stepR16Mem p s) (Machine.stepR16Mem p s') := by
  cases p with
  | bc | de => exact agree
  | hlInc | hlDec =>
    rw [Machine.stepR16Mem, Machine.stepR16Mem, agree.read16 (by decide)]
    exact agree.write16 .hl _

/-! ## Operations on both -/

/-- Both operations answer, with values that `R` relates, or both raise the same fault. -/
inductive AnswersAlike {α : Type} (R : α → α → Prop) : Except Fault α → Except Fault α → Prop
  | ok {a a' : α} (related : R a a') : AnswersAlike R (.ok a) (.ok a')
  | error {f f' : Fault} (same : f'.record = f.record) : AnswersAlike R (.error f) (.error f')

theorem agreeButNH.readByte (agree : agreeButNH s s') (kind : AccessKind) (a : Word) :
    AnswersAlike Eq (Machine.readByte kind a s) (Machine.readByte kind a s') := by
  cases stored : isStorage a with
  | true =>
    rw [readByte_ok stored, readByte_ok stored]
    exact .ok (agree.byteAt a).symm
  | false =>
    rw [readByte_error stored, readByte_error stored]
    exact .error rfl

theorem agreeButNH.writeByte (agree : agreeButNH s s') (a : Word) (v : Byte) :
    AnswersAlike agreeButNH (Machine.writeByte a v s) (Machine.writeByte a v s') := by
  cases stored : isStorage a with
  | true =>
    rw [writeByte_ok stored, writeByte_ok stored]
    exact .ok (agree.putByte a v)
  | false =>
    rw [writeByte_error stored, writeByte_error stored]
    exact .error rfl

theorem AnswersAlike.bind {α β : Type} {R : α → α → Prop} {Q : β → β → Prop} {x x' : Except Fault α}
    {k k' : α → Except Fault β} (first : AnswersAlike R x x')
    (goesOn : ∀ a a', R a a' → AnswersAlike Q (k a) (k' a')) : AnswersAlike Q (x.bind k) (x'.bind k') := by
  cases first with
  | ok related => exact goesOn _ _ related
  | error same => exact .error same

theorem writeWord_eq_bind (a w : Word) (s : State) :
    writeWord a w s = (writeByte a (lo w) s).bind (writeByte (a + 1) (hi w)) := by
  unfold writeWord
  cases writeByte a (lo w) s <;> rfl

theorem readWord_eq_bind (a : Word) (s : State) :
    readWord a s = (readByte .read a s).bind fun l => (readByte .read (a + 1) s).bind fun h => .ok (combine h l) := by
  unfold readWord
  cases readByte .read a s with
  | error f => rfl
  | ok l => cases readByte .read (a + 1) s <;> rfl

theorem pop_eq_bind (s : State) :
    pop s = (readWord (s.read16 .sp) s).bind fun v => .ok (v, s.write16 .sp (s.read16 .sp + 2)) := by
  unfold pop
  cases readWord (s.read16 .sp) s <;> rfl

theorem agreeButNH.writeWord (agree : agreeButNH s s') (a w : Word) :
    AnswersAlike agreeButNH (Machine.writeWord a w s) (Machine.writeWord a w s') := by
  rw [writeWord_eq_bind, writeWord_eq_bind]
  exact (agree.writeByte a (lo w)).bind fun _ _ agree => agree.writeByte (a + 1) (hi w)

theorem agreeButNH.readWord (agree : agreeButNH s s') (a : Word) :
    AnswersAlike Eq (Machine.readWord a s) (Machine.readWord a s') := by
  rw [readWord_eq_bind, readWord_eq_bind]
  refine (agree.readByte .read a).bind fun l _ sameLow => (agree.readByte .read (a + 1)).bind fun h _ sameHigh => ?_
  exact .ok (by rw [sameLow, sameHigh])

theorem agreeButNH.push (agree : agreeButNH s s') (w : Word) :
    AnswersAlike agreeButNH (Machine.push w s) (Machine.push w s') := by
  rw [Machine.push, Machine.push, agree.read16 (by decide)]
  exact (agree.write16 .sp _).writeWord _ w

/-- The same word is popped, and the states after it agree. -/
theorem agreeButNH.pop (agree : agreeButNH s s') :
    AnswersAlike (fun r r' => r'.1 = r.1 ∧ agreeButNH r.2 r'.2) (Machine.pop s) (Machine.pop s') := by
  rw [pop_eq_bind, pop_eq_bind, agree.read16 (by decide)]
  exact (agree.readWord _).bind fun _ _ same => .ok ⟨same.symm, agree.write16 .sp _⟩

theorem agreeButNH.readR8 (agree : agreeButNH s s') (i : R8) :
    AnswersAlike Eq (Machine.readR8 i s) (Machine.readR8 i s') := by
  cases i with
  | hlMem =>
    rw [readR8_hlMem, readR8_hlMem, agree.read16 (by decide)]
    exact agree.readByte _ _
  | _ => exact .ok (agree.read8 (by decide)).symm

theorem agreeButNH.writeR8 (agree : agreeButNH s s') (i : R8) (v : Byte) :
    AnswersAlike agreeButNH (Machine.writeR8 i v s) (Machine.writeR8 i v s') := by
  cases i with
  | hlMem =>
    rw [writeR8_hlMem, writeR8_hlMem, agree.read16 (by decide)]
    exact agree.writeByte _ _
  | _ => exact .ok (agree.write8 (by decide) v)

/-! ## Outcomes alike -/

/-- Both complete, in states that agree but for N and H, or both raise the same fault. -/
def EndsAlike (o o' : Result) : Prop :=
  (∀ t, o = .next t → ∃ t', o' = .next t' ∧ agreeButNH t t') ∧ raised o' = raised o

theorem agreeButNH.next (agree : agreeButNH s s') : EndsAlike (.next s) (.next s') := by
  refine ⟨?_, rfl⟩
  rintro _ ⟨⟩
  exact ⟨s', rfl, agree⟩

theorem endsAlike_fault {f f' : Fault} (same : f'.record = f.record) : EndsAlike (.fault f) (.fault f') := by
  refine ⟨?_, congrArg some same⟩
  rintro _ ⟨⟩

theorem agreeButNH.raiseDecode (agree : agreeButNH s s') (op : Byte) :
    EndsAlike (Machine.raiseDecode op s) (Machine.raiseDecode op s') := by
  have samePc : s'.pc = s.pc := agree.read16 (r := .pc) (by decide)
  exact endsAlike_fault (by rw [Fault.record, Fault.record, samePc])

theorem AnswersAlike.andThen {α : Type} {R : α → α → Prop} {x x' : Except Fault α} {k k' : α → Result}
    (first : AnswersAlike R x x') (goesOn : ∀ a a', R a a' → EndsAlike (k a) (k' a')) :
    EndsAlike (Machine.andThen x k) (Machine.andThen x' k') := by
  cases first with
  | ok related => exact goesOn _ _ related
  | error same => exact endsAlike_fault same

/-- Both go on with the same value. -/
theorem AnswersAlike.andThen_eq {α : Type} {x x' : Except Fault α} {k k' : α → Result} (first : AnswersAlike Eq x x')
    (goesOn : ∀ a, EndsAlike (k a) (k' a)) : EndsAlike (Machine.andThen x k) (Machine.andThen x' k') :=
  first.andThen fun a _ same => same ▸ goesOn a

theorem AnswersAlike.done {x x' : Except Fault State} (first : AnswersAlike agreeButNH x x') :
    EndsAlike (Machine.done x) (Machine.done x') :=
  first.andThen fun _ _ agree => agree.next

theorem agreeButNH.rotOperand (agree : agreeButNH s s') (r : R8) (f : Byte → Shifted) :
    EndsAlike (Machine.rotOperand r f s) (Machine.rotOperand r f s') :=
  (agree.readR8 r).andThen_eq fun v => (agree.writeR8 r (f v).value).andThen fun _ _ agree =>
    (agree.writeFlags _ _ _ _).next

theorem agreeButNH.rewriteOperand (agree : agreeButNH s s') (r : R8) (f : Byte → Byte) :
    EndsAlike (Machine.andThen (Machine.readR8 r s) fun v => Machine.done (Machine.writeR8 r (f v) s))
      (Machine.andThen (Machine.readR8 r s') fun v => Machine.done (Machine.writeR8 r (f v) s')) :=
  (agree.readR8 r).andThen_eq fun v => (agree.writeR8 r (f v)).done

theorem agreeButNH.callTo (agree : agreeButNH s s') (target : Word) :
    EndsAlike (Machine.callTo target s) (Machine.callTo target s') := by
  rw [Machine.callTo, Machine.callTo, agree.read16 (by decide)]
  exact (agree.push _).andThen fun _ _ agree => (agree.write16 .pc target).next

theorem agreeButNH.returnThen (agree : agreeButNH s s') {k : State → State}
    (kept : ∀ t t', agreeButNH t t' → agreeButNH (k t) (k t')) :
    EndsAlike (Machine.returnThen k s) (Machine.returnThen k s') := by
  refine agree.pop.andThen ?_
  rintro ⟨w, t⟩ ⟨_, t'⟩ ⟨rfl, agree⟩
  exact (kept _ _ (agree.write16 .pc _)).next

/-- A conditional instruction takes the same branch. -/
theorem agreeButNH.ite_condHolds (agree : agreeButNH s s') (cc : Cond) {o o' : Result} (taken : EndsAlike o o') :
    EndsAlike (if Machine.condHolds cc s then o else .next s) (if Machine.condHolds cc s' then o' else .next s') := by
  rw [agree.condHolds]
  split
  · exact taken
  · exact agree.next

theorem agreeButNH.accRotate (agree : agreeButNH s s') (r : Shifted) :
    EndsAlike (.next (Machine.accRotate r s)) (.next (Machine.accRotate r s')) :=
  (agree.write8_a_writeFlags _ _ _ _ _).next

theorem slotOfR16_ne_af (p : R16) : slotOfR16 p ≠ .af := by cases p <;> decide

/-- DAA and PUSH AF aside, every instruction ends alike in states that agree but for N and H. -/
theorem agreeButNH.exec (agree : agreeButNH s s') {i : Instr} (notDaa : i ≠ .daa) (notPushAf : i ≠ .pushR16stk .af) :
    EndsAlike (Machine.exec i s) (Machine.exec i s') := by
  have sameA := agree.read8 (r := .a) (by decide)
  have sameC := agree.read8 (r := .c) (by decide)
  have sameHl := agree.read16 (r := .hl) (by decide)
  have sameSp := agree.read16 (r := .sp) (by decide)
  have samePc := agree.read16 (r := .pc) (by decide)
  have sameCarry := agree.readFlag (f := .c) (by decide) (by decide)
  have sameSlot (p : R16) := agree.read16 (slotOfR16_ne_af p)
  cases i with
  | daa => exact absurd rfl notDaa
  | nop => exact agree.next
  | scf => exact (((agree.writeFlag _ _).writeFlag _ _).writeFlag _ _).next
  | ccf =>
    simp only [Machine.exec, execCcf, sameCarry]
    exact (((agree.writeFlag _ _).writeFlag _ _).writeFlag _ _).next
  | cpl =>
    simp only [Machine.exec, execCpl, sameA]
    exact (((agree.write8 (by decide) _).writeFlag _ _).writeFlag _ _).next
  | halt => exact (agree.writeHalted true).next
  | di | ei => exact (agree.writeIme _).next
  | stop | illegalD3 | illegalDB | illegalDD | illegalE3 | illegalE4 | illegalEB | illegalEC | illegalED | illegalF4
  | illegalFC | illegalFD => exact agree.raiseDecode _
  | rlca | rrca | rla | rra =>
    simp only [Machine.exec, execRlca, execRrca, execRla, execRra, sameA, sameCarry]
    exact agree.accRotate _
  | ldR8R8 dst r => exact (agree.readR8 r).andThen_eq fun v => (agree.writeR8 dst v).done
  | ldR8Imm8 dst v => exact (agree.writeR8 dst v).done
  | ldR8Hl dst =>
    simp only [Machine.exec, execLdR8Hl, sameHl]
    exact (agree.readByte _ _).andThen_eq fun v => (agree.writeR8 dst v).done
  | ldHlR8 r =>
    simp only [Machine.exec, execLdHlR8, sameHl]
    exact (agree.readR8 r).andThen_eq fun v => (agree.writeByte _ v).done
  | ldHlImm8 v =>
    simp only [Machine.exec, execLdHlImm8, sameHl]
    exact (agree.writeByte _ v).done
  | ldR16Imm16 p w => exact (agree.write16 _ w).next
  | ldSpHl =>
    simp only [Machine.exec, execLdSpHl, sameHl]
    exact (agree.write16 .sp _).next
  | ldR16MemA p =>
    simp only [Machine.exec, execLdR16MemA, sameA, agree.addrOfR16Mem]
    exact (agree.writeByte _ _).andThen fun _ _ agree => (agree.stepR16Mem p).next
  | ldAR16Mem p =>
    simp only [Machine.exec, execLdAR16Mem, agree.addrOfR16Mem]
    exact (agree.readByte _ _).andThen_eq fun v => ((agree.write8 (by decide) v).stepR16Mem p).next
  | ldhA8A a8 | ldhCA | ldA16A a16 =>
    simp only [Machine.exec, execLdhA8A, execLdhCA, execLdA16A, sameA, sameC]
    exact (agree.writeByte _ _).done
  | ldhAA8 a8 | ldhAC | ldAA16 a16 =>
    simp only [Machine.exec, execLdhAA8, execLdhAC, execLdAA16, sameC]
    exact (agree.readByte _ _).andThen_eq fun v => (agree.write8 (by decide) v).next
  | ldA16Sp a16 =>
    simp only [Machine.exec, execLdA16Sp, sameSp]
    exact (agree.writeWord _ _).done
  | ldHlSpE8 e8 | addSpE8 e8 =>
    simp only [Machine.exec, execLdHlSpE8, execAddSpE8, sameSp]
    exact ((agree.write16 _ _).writeFlags _ _ _ _).next
  | addAR8 r => exact (agree.readR8 r).andThen_eq fun v => (agree.aluAdd v false).next
  | adcAR8 r =>
    simp only [Machine.exec, execAdcAR8, sameCarry]
    exact (agree.readR8 r).andThen_eq fun v => (agree.aluAdd v _).next
  | subAR8 r => exact (agree.readR8 r).andThen_eq fun v => (agree.aluSub v false).next
  | sbcAR8 r =>
    simp only [Machine.exec, execSbcAR8, sameCarry]
    exact (agree.readR8 r).andThen_eq fun v => (agree.aluSub v _).next
  | cpAR8 r => exact (agree.readR8 r).andThen_eq fun v => (agree.aluCompare v false).next
  | andAR8 r => exact (agree.readR8 r).andThen_eq fun v => (agree.aluAnd v).next
  | orAR8 r => exact (agree.readR8 r).andThen_eq fun v => (agree.aluOr v).next
  | xorAR8 r => exact (agree.readR8 r).andThen_eq fun v => (agree.aluXor v).next
  | addAImm8 v => exact (agree.aluAdd v false).next
  | adcAImm8 v =>
    simp only [Machine.exec, execAdcAImm8, sameCarry]
    exact (agree.aluAdd v _).next
  | subAImm8 v => exact (agree.aluSub v false).next
  | sbcAImm8 v =>
    simp only [Machine.exec, execSbcAImm8, sameCarry]
    exact (agree.aluSub v _).next
  | cpAImm8 v => exact (agree.aluCompare v false).next
  | andAImm8 v => exact (agree.aluAnd v).next
  | orAImm8 v => exact (agree.aluOr v).next
  | xorAImm8 v => exact (agree.aluXor v).next
  | incR8 r =>
    exact (agree.readR8 r).andThen_eq fun v => (agree.writeR8 r _).andThen fun _ _ agree => (agree.incFlags v).next
  | decR8 r =>
    exact (agree.readR8 r).andThen_eq fun v => (agree.writeR8 r _).andThen fun _ _ agree => (agree.decFlags v).next
  | incHl =>
    exact (agree.readR8 .hlMem).andThen_eq fun v => (agree.writeR8 .hlMem _).andThen fun _ _ agree =>
      (agree.incFlags v).next
  | decHl =>
    exact (agree.readR8 .hlMem).andThen_eq fun v => (agree.writeR8 .hlMem _).andThen fun _ _ agree =>
      (agree.decFlags v).next
  | incR16 p | decR16 p =>
    simp only [Machine.exec, execIncR16, execDecR16, sameSlot]
    exact (agree.write16 _ _).next
  | addHlR16 p =>
    simp only [Machine.exec, execAddHlR16, sameSlot]
    exact (agree.addToHl _).next
  | rlcR8 r | rrcR8 r | slaR8 r | sraR8 r | swapR8 r | srlR8 r => exact agree.rotOperand r _
  | rlR8 r | rrR8 r =>
    simp only [Machine.exec, execRlR8, execRrR8, sameCarry]
    exact agree.rotOperand r _
  | bitNR8 n r => exact (agree.readR8 r).andThen_eq fun v => (agree.bitFlags n v).next
  | resNR8 n r | setNR8 n r => exact agree.rewriteOperand r _
  | prefixCb cb =>
    simp only [Machine.exec, execPrefixCb, execRlR8, execRrR8, sameCarry]
    split
    · split <;> exact agree.rotOperand _ _
    · exact (agree.readR8 _).andThen_eq fun v => (agree.bitFlags _ v).next
    · exact agree.rewriteOperand _ _
    · exact agree.rewriteOperand _ _
  | jrE8 e8 | jpA16 a16 | jpHl =>
    simp only [Machine.exec, execJrE8, execJpA16, execJpHl, samePc, sameHl]
    exact (agree.write16 .pc _).next
  | jrCcE8 cc e8 =>
    simp only [Machine.exec, execJrCcE8, samePc]
    exact agree.ite_condHolds cc (agree.write16 .pc _).next
  | jpCcA16 cc a16 => exact agree.ite_condHolds cc (agree.write16 .pc _).next
  | callA16 a16 | rstVec n => exact agree.callTo _
  | callCcA16 cc a16 => exact agree.ite_condHolds cc (agree.callTo a16)
  | ret => exact agree.returnThen fun _ _ agree => agree
  | reti => exact agree.returnThen fun _ _ agree => agree.writeIme true
  | retCc cc => exact agree.ite_condHolds cc (agree.returnThen fun _ _ agree => agree)
  | popR16stk p =>
    refine agree.pop.andThen ?_
    rintro ⟨w, t⟩ ⟨_, t'⟩ ⟨rfl, agree⟩
    exact (agree.write16 _ _).next
  | pushR16stk p =>
    have sameWord := agree.read16 (r := slotOfR16Stk p) fun af => notPushAf (congrArg _ (slotOfR16Stk_eq_af.1 af))
    simp only [Machine.exec, execPushR16stk, sameWord]
    exact (agree.push _).done

end Agree

/-! ## The statement -/

/-- Settles O40: the instructions read N and H nowhere but in `DAA` and in the F that `PUSH AF` copies. -/
theorem onlyDaaReadsNAndH : Obligations.OnlyDaaReadsNAndH :=
  fun _ _ _ notDaa notPushAf agree => agree.exec notDaa notPushAf

end Sys2Proof.Machine
end

section
/-! PROOFS. The exceptions family (60_exceptions.md): the faults that a data access can raise, how every instruction
ends, the bytes of an instruction fetched in order, a tick as a step with a count, what the host's actions keep, and the
six statements of the family. -/

namespace Sys2Proof.Machine

/-! ## Operations that fault only in a data access (60_exceptions.md R311, R313) -/

/-- The fault of a data access: a BusFault at an address without storage that no fetch raised. -/
def Fault.FromData (f : Fault) : Prop :=
  ∃ addr kind, f.record = .busFault addr kind ∧ isStorage addr = false ∧ kind ≠ .fetch

/-- The operation answers or raises the fault of a data access, the latter only where `access` is set. -/
inductive OnlyDataFaults (access : Bool) {α : Type} : Except Fault α → Prop
  | ok (a : α) : OnlyDataFaults access (.ok a)
  | error {f : Fault} (allowed : access = true) (fromData : f.FromData) : OnlyDataFaults access (.error f)

theorem OnlyDataFaults.fromData {access : Bool} {α : Type} {x : Except Fault α} (ends : OnlyDataFaults access x)
    {f : Fault} (raised : x = .error f) : f.FromData := by
  subst raised
  cases ends with
  | error _ fromData => exact fromData

theorem OnlyDataFaults.mono {access access' : Bool} {α : Type} {x : Except Fault α} (ends : OnlyDataFaults access x)
    (le : access = true → access' = true) : OnlyDataFaults access' x := by
  cases ends with
  | ok a => exact .ok a
  | error allowed fromData => exact .error (le allowed) fromData

theorem OnlyDataFaults.bind {access : Bool} {α β : Type} {x : Except Fault α} {k : α → Except Fault β}
    (first : OnlyDataFaults access x) (goesOn : ∀ a, OnlyDataFaults access (k a)) :
    OnlyDataFaults access (x.bind k) := by
  cases first with
  | ok a => exact goesOn a
  | error allowed fromData => exact .error allowed fromData

theorem onlyDataFaults_readByte (a : Word) (s : State) : OnlyDataFaults true (readByte .read a s) := by
  cases stored : isStorage a with
  | true => exact readByte_ok stored .read s ▸ .ok _
  | false => exact readByte_error stored .read s ▸ .error rfl ⟨a, .read, rfl, stored, by decide⟩

theorem onlyDataFaults_writeByte (a : Word) (v : Byte) (s : State) : OnlyDataFaults true (writeByte a v s) := by
  cases stored : isStorage a with
  | true => exact writeByte_ok stored v s ▸ .ok _
  | false => exact writeByte_error stored v s ▸ .error rfl ⟨a, .write, rfl, stored, by decide⟩

theorem onlyDataFaults_readWord (a : Word) (s : State) : OnlyDataFaults true (readWord a s) := by
  rw [readWord_eq_bind]
  exact (onlyDataFaults_readByte a s).bind fun _ => (onlyDataFaults_readByte (a + 1) s).bind fun _ => .ok _

theorem onlyDataFaults_writeWord (a w : Word) (s : State) : OnlyDataFaults true (writeWord a w s) := by
  rw [writeWord_eq_bind]
  exact (onlyDataFaults_writeByte a (lo w) s).bind fun t => onlyDataFaults_writeByte (a + 1) (hi w) t

theorem onlyDataFaults_push (w : Word) (s : State) : OnlyDataFaults true (push w s) := onlyDataFaults_writeWord _ w _

theorem onlyDataFaults_pop (s : State) : OnlyDataFaults true (pop s) := by
  rw [pop_eq_bind]
  exact (onlyDataFaults_readWord _ s).bind fun _ => .ok _

/-- The addresses of the high-memory forms are storage, so their accesses never fault (40_data_movement.md R148). -/
theorem onlyDataFaults_readByte_highAddr (v : Byte) (s : State) :
    OnlyDataFaults false (readByte .read (highAddr v) s) :=
  highAddr_storage_read .read v s ▸ .ok _

theorem onlyDataFaults_writeByte_highAddr (v w : Byte) (s : State) :
    OnlyDataFaults false (writeByte (highAddr v) w s) :=
  highAddr_storage_write v w s ▸ .ok _

/-- Reading a register operand never faults. -/
theorem onlyDataFaults_readR8 (i : R8) (s : State) : OnlyDataFaults (!i.isRegister) (readR8 i s) := by
  cases i with
  | hlMem => exact onlyDataFaults_readByte _ s
  | _ => exact .ok _

/-- Writing a register operand never faults. -/
theorem onlyDataFaults_writeR8 (i : R8) (v : Byte) (s : State) : OnlyDataFaults (!i.isRegister) (writeR8 i v s) := by
  cases i with
  | hlMem => exact onlyDataFaults_writeByte _ v s
  | _ => exact .ok _

/-! ## How every instruction ends (60_exceptions.md R313) -/

/-- The outcome is a next state or the fault of a data access, the latter only where `access` is set. -/
inductive CompletesOrDataFaults (access : Bool) : Result → Prop
  | next (t : State) : CompletesOrDataFaults access (.next t)
  | fault {f : Fault} (allowed : access = true) (fromData : f.FromData) : CompletesOrDataFaults access (.fault f)

theorem OnlyDataFaults.andThen {access : Bool} {α : Type} {x : Except Fault α} {k : α → Result}
    (first : OnlyDataFaults access x) (goesOn : ∀ a, CompletesOrDataFaults access (k a)) :
    CompletesOrDataFaults access (Machine.andThen x k) := by
  cases first with
  | ok a => exact goesOn a
  | error allowed fromData => exact .fault allowed fromData

theorem OnlyDataFaults.done {access : Bool} {x : Except Fault State} (ends : OnlyDataFaults access x) :
    CompletesOrDataFaults access (Machine.done x) :=
  ends.andThen fun t => .next t

theorem CompletesOrDataFaults.ite_condHolds {access : Bool} {o : Result} (taken : CompletesOrDataFaults access o)
    (cc : Cond) (s : State) : CompletesOrDataFaults access (if condHolds cc s then o else .next s) := by
  split
  · exact taken
  · exact .next s

theorem completesOrDataFaults_rotOperand (r : R8) (path : Byte → Shifted) (s : State) :
    CompletesOrDataFaults (!r.isRegister) (rotOperand r path s) :=
  (onlyDataFaults_readR8 r s).andThen fun _ => (onlyDataFaults_writeR8 r _ s).andThen fun _ => .next _

theorem completesOrDataFaults_rewriteOperand (r : R8) (f : Byte → Byte) (s : State) :
    CompletesOrDataFaults (!r.isRegister) (andThen (readR8 r s) fun v => done (writeR8 r (f v) s)) :=
  (onlyDataFaults_readR8 r s).andThen fun v => (onlyDataFaults_writeR8 r (f v) s).done

theorem completesOrDataFaults_callTo (target : Word) (s : State) : CompletesOrDataFaults true (callTo target s) :=
  (onlyDataFaults_push _ s).andThen fun _ => .next _

theorem completesOrDataFaults_returnThen (k : State → State) (s : State) :
    CompletesOrDataFaults true (returnThen k s) :=
  (onlyDataFaults_pop s).andThen fun _ => .next _

/-- The rows that are no instruction raise DecodeFault with their one byte. -/
theorem exec_noInstruction {i : Instr} (row : noInstruction i = true) (s : State) :
    ∃ op, encode i = [op] ∧ exec i s = raiseDecode op s := by
  cases i with
  | stop | illegalD3 | illegalDB | illegalDD | illegalE3 | illegalE4 | illegalEB | illegalEC | illegalED | illegalF4
  | illegalFC | illegalFD => exact ⟨_, rfl, rfl⟩
  | _ => cases row

/-- Every other row completes or raises the fault of a data access, and the latter only if it has one. -/
theorem exec_completesOrDataFaults {i : Instr} (row : noInstruction i = false) (s : State) :
    CompletesOrDataFaults (accessesData i) (exec i s) := by
  cases i with
  | stop | illegalD3 | illegalDB | illegalDD | illegalE3 | illegalE4 | illegalEB | illegalEC | illegalED | illegalF4
  | illegalFC | illegalFD => cases row
  | ldHlImm8 | ldA16A => exact (onlyDataFaults_writeByte _ _ s).done
  | ldA16Sp => exact (onlyDataFaults_writeWord _ _ s).done
  | ldR16MemA => exact (onlyDataFaults_writeByte _ _ s).andThen fun _ => .next _
  | ldAR16Mem | ldAA16 => exact (onlyDataFaults_readByte _ s).andThen fun _ => .next _
  | incHl | decHl =>
    exact (onlyDataFaults_readByte _ s).andThen fun _ => (onlyDataFaults_writeByte _ _ s).andThen fun _ => .next _
  | ldhA8A | ldhCA => exact (onlyDataFaults_writeByte_highAddr _ _ s).done
  | ldhAA8 | ldhAC => exact (onlyDataFaults_readByte_highAddr _ s).andThen fun _ => .next _
  | ldR8Imm8 dst v => exact (onlyDataFaults_writeR8 dst v s).done
  | ldR8Hl dst =>
    exact (onlyDataFaults_readByte _ s).andThen fun v => ((onlyDataFaults_writeR8 dst v s).mono fun _ => rfl).done
  | ldHlR8 r =>
    exact ((onlyDataFaults_readR8 r s).mono fun _ => rfl).andThen fun _ => (onlyDataFaults_writeByte _ _ s).done
  | ldR8R8 dst r =>
    exact ((onlyDataFaults_readR8 r s).mono Bool.or_inr).andThen fun v =>
      ((onlyDataFaults_writeR8 dst v s).mono Bool.or_inl).done
  | incR8 r | decR8 r =>
    exact (onlyDataFaults_readR8 r s).andThen fun _ => (onlyDataFaults_writeR8 r _ s).andThen fun _ => .next _
  | addAR8 r | adcAR8 r | subAR8 r | sbcAR8 r | andAR8 r | xorAR8 r | orAR8 r | cpAR8 r | bitNR8 _ r =>
    exact (onlyDataFaults_readR8 r s).andThen fun _ => .next _
  | rlcR8 r | rrcR8 r | rlR8 r | rrR8 r | slaR8 r | sraR8 r | swapR8 r | srlR8 r =>
    exact completesOrDataFaults_rotOperand r _ s
  | resNR8 _ r | setNR8 _ r => exact completesOrDataFaults_rewriteOperand r _ s
  | prefixCb cb =>
    simp only [exec, execPrefixCb]
    split
    · split <;> exact completesOrDataFaults_rotOperand _ _ s
    · exact (onlyDataFaults_readR8 _ s).andThen fun _ => .next _
    · exact completesOrDataFaults_rewriteOperand _ _ s
    · exact completesOrDataFaults_rewriteOperand _ _ s
  | jrCcE8 cc | jpCcA16 cc => exact .ite_condHolds (.next _) cc s
  | callA16 | rstVec => exact completesOrDataFaults_callTo _ s
  | callCcA16 cc => exact (completesOrDataFaults_callTo _ s).ite_condHolds cc s
  | ret => exact completesOrDataFaults_returnThen id s
  | reti => exact completesOrDataFaults_returnThen (fun t => t.writeIme true) s
  | retCc cc => exact (completesOrDataFaults_returnThen _ s).ite_condHolds cc s
  | popR16stk => exact (onlyDataFaults_pop s).andThen fun _ => .next _
  | pushR16stk => exact (onlyDataFaults_push _ s).done
  | _ => exact .next _

theorem exec_ne_refused (i : Instr) (s : State) (r : Refusal) : exec i s ≠ .refused r := by
  intro refused
  cases row : noInstruction i with
  | true =>
    obtain ⟨op, -, raises⟩ := exec_noInstruction row s
    cases raises.symm.trans refused
  | false =>
    have ends := exec_completesOrDataFaults row s
    rw [refused] at ends
    cases ends

/-! ## IME, halted and the fault record (60_exceptions.md R321) -/

theorem ime_keptByUpdates {i : Instr} (other : ¬ (i = .di ∨ i = .ei ∨ i = .reti)) (ime : Bool) :
    KeptByUpdates i (fun s => s.ime = ime) where
  write8 s r v _ kept := (ime_write8 s r v).trans kept
  write16 s r w _ kept := (ime_write16 s r w).trans kept
  writeFlag _ _ _ kept := kept
  putByte _ _ _ _ kept := kept
  writePc _ _ _ kept := kept
  writeIme named := absurd named other
  writeHalted _ _ _ kept := kept

theorem halted_keptByUpdates {i : Instr} (other : i ≠ .halt) (halted : Bool) :
    KeptByUpdates i (fun s => s.halted = halted) where
  write8 s r v _ kept := (halted_write8 s r v).trans kept
  write16 s r w _ kept := (halted_write16 s r w).trans kept
  writeFlag _ _ _ kept := kept
  putByte _ _ _ _ kept := kept
  writePc _ _ _ kept := kept
  writeIme _ _ _ kept := kept
  writeHalted named := absurd named other

theorem fault_keptByUpdates (i : Instr) (fault : Option FaultRecord) : KeptByUpdates i (fun s => s.fault = fault) where
  write8 s r v _ kept := (fault_write8 s r v).trans kept
  write16 s r w _ kept := (fault_write16 s r w).trans kept
  writeFlag _ _ _ kept := kept
  putByte _ _ _ _ kept := kept
  writePc _ _ _ kept := kept
  writeIme _ _ _ kept := kept
  writeHalted _ _ _ kept := kept

/-! ## The bytes of an instruction, fetched in order (60_exceptions.md R317; 20_memory.md R82) -/

/-- The state after the next `n` bytes are fetched, one by one. -/
def fetchPast : Nat → State → Except Fault State
  | 0, s => .ok s
  | n + 1, s => (fetch8 s).bind fun fetched => fetchPast n fetched.2

theorem add_ofNat_succ (w : Word) (k : Nat) : w + BitVec.ofNat 16 (k + 1) = w + 1 + BitVec.ofNat 16 k := by
  rw [Nat.add_comm, BitVec.ofNat_add, ← BitVec.add_assoc]; rfl

theorem fetchPast_of_stored {s : State} (stored : isStorage (s.read16 .pc) = true) (n : Nat) :
    fetchPast (n + 1) s = fetchPast n (s.write16 .pc (s.read16 .pc + 1)) := by
  rw [fetchPast, fetch8_ok stored]; rfl

theorem fetchPast_of_gap {s : State} (gap : isStorage (s.read16 .pc) = false) (n : Nat) :
    fetchPast (n + 1) s = .error (.busFault (s.read16 .pc) .fetch s) := by
  rw [fetchPast, fetch8_error gap]; rfl

theorem fetchPast_ok {n : Nat} {s : State}
    (stored : ∀ k, k < n → isStorage (s.read16 .pc + BitVec.ofNat 16 k) = true) :
    fetchPast n s = .ok (s.write16 .pc (s.read16 .pc + BitVec.ofNat 16 n)) := by
  induction n generalizing s with
  | zero => rw [BitVec.add_zero]; rfl
  | succ n ih =>
    have first : isStorage (s.read16 .pc) = true := BitVec.add_zero (s.read16 .pc) ▸ stored 0 n.succ_pos
    have others (k : Nat) (lt : k < n) := add_ofNat_succ _ k ▸ stored (k + 1) (Nat.succ_lt_succ lt)
    rw [fetchPast_of_stored first, add_ofNat_succ]
    exact ih others

/-- Of the bytes to fetch, the first without storage raises its fault. -/
theorem fetchPast_error {n k : Nat} {s : State} (lt : k < n)
    (stored : ∀ j, j < k → isStorage (s.read16 .pc + BitVec.ofNat 16 j) = true)
    (gap : isStorage (s.read16 .pc + BitVec.ofNat 16 k) = false) :
    ∃ f, fetchPast n s = .error f ∧ f.record = .busFault (s.read16 .pc + BitVec.ofNat 16 k) .fetch := by
  induction n generalizing k s with
  | zero => cases lt
  | succ n ih =>
    cases k with
    | zero =>
      rw [BitVec.add_zero] at gap ⊢
      exact ⟨_, fetchPast_of_gap gap n, rfl⟩
    | succ k =>
      have first : isStorage (s.read16 .pc) = true := BitVec.add_zero (s.read16 .pc) ▸ stored 0 k.succ_pos
      have others (j : Nat) (lt : j < k) := add_ofNat_succ _ j ▸ stored (j + 1) (Nat.succ_lt_succ lt)
      rw [add_ofNat_succ] at gap ⊢
      rw [fetchPast_of_stored first]
      exact ih (Nat.lt_of_succ_lt_succ lt) others gap

theorem fetch8_eq_map (s : State) : fetch8 s = (fetchPast 1 s).map fun t => (s.byteAt (s.read16 .pc), t) := by
  cases stored : isStorage (s.read16 .pc) with
  | true => rw [fetchPast_of_stored stored, fetch8_ok stored]; rfl
  | false => rw [fetchPast_of_gap stored, fetch8_error stored]; rfl

theorem fetch16_eq_map (s : State) :
    fetch16 s = (fetchPast 2 s).map fun t => (combine (s.byteAt (s.read16 .pc + 1)) (s.byteAt (s.read16 .pc)), t) := by
  cases stored : isStorage (s.read16 .pc) with
  | true =>
    simp only [fetchPast_of_stored stored, fetch16, fetch8_ok stored, fetch8_eq_map, byteAt_write16]
    cases fetchPast 1 (s.write16 .pc (s.read16 .pc + 1)) <;> rfl
  | false => simp only [fetchPast_of_gap stored, fetch16, fetch8_error stored]; rfl

/-- The rest of the fetch, once the first byte has selected a pattern. -/
def fetchOperand (s : State) : Pattern → Except Fault (Instr × State)
  | .op i => .ok (i, s)
  | .opImm8 k => (fetch8 s).map fun fetched => (k fetched.1, fetched.2)
  | .opImm16 k => (fetch16 s).map fun fetched => (k fetched.1, fetched.2)
  | .cb => (fetch8 s).map fun fetched => (decodeCb fetched.1, fetched.2)

theorem fetchInstr_of_stored {s : State} {p : Pattern} (stored : isStorage (s.read16 .pc) = true)
    (first : decodeFirst (s.byteAt (s.read16 .pc)) = some p) :
    fetchInstr s = fetchOperand (s.write16 .pc (s.read16 .pc + 1)) p := by
  simp only [fetchInstr, fetch8_ok stored, first]
  cases p with
  | op i => rfl
  | opImm8 k | cb =>
    rw [fetchOperand]
    cases fetch8 (s.write16 .pc (s.read16 .pc + 1)) <;> rfl
  | opImm16 k =>
    rw [fetchOperand]
    cases fetch16 (s.write16 .pc (s.read16 .pc + 1)) <;> rfl

theorem fetchInstr_of_gap {s : State} (gap : isStorage (s.read16 .pc) = false) :
    fetchInstr s = .error (.busFault (s.read16 .pc) .fetch s) := by
  simp only [fetchInstr, fetch8_error gap]

/-- Where the next bytes are a pattern's operand, the rest of the fetch is fetching these, one by one. -/
theorem fetchOperand_eq_map {s : State} {p : Pattern} {v : Byte} {w : Word} {rest : List Byte}
    (held : p.operand v w ++ rest = [s.byteAt (s.read16 .pc), s.byteAt (s.read16 .pc + 1)]) :
    fetchOperand s p = (fetchPast (p.operand v w).length s).map fun t => (p.instr v w, t) := by
  cases p with
  | op i => rfl
  | opImm8 k | cb =>
    obtain ⟨rfl, -⟩ := List.cons.inj held
    rw [fetchOperand, fetch8_eq_map]
    change _ = (fetchPast 1 s).map _
    cases fetchPast 1 s <;> rfl
  | opImm16 k =>
    obtain ⟨low, heldHigh⟩ := List.cons.inj held
    obtain ⟨high, -⟩ := List.cons.inj heldHigh
    rw [fetchOperand, fetch16_eq_map, ← low, ← high, combine_hi_lo]
    change _ = (fetchPast 2 s).map _
    cases fetchPast 2 s <;> rfl

/-- Fetching an instruction is fetching, one by one, the bytes that the decoder reads it from. -/
theorem fetchInstr_of_decode {s : State} {i : Instr} {rest : List Byte}
    (decoded : decode (windowAtPc s) = .ok (i, rest)) :
    fetchInstr s = (fetchPast (3 - rest.length) s).map fun t => (i, t) := by
  obtain ⟨op, p, v, w, first, rfl, bytes⟩ := pattern_of_decode decoded
  obtain ⟨rfl, held⟩ : op = s.byteAt (s.read16 .pc) ∧
      p.operand v w ++ rest = [s.byteAt (s.read16 .pc + 1), s.byteAt (s.read16 .pc + 2)] := List.cons.inj bytes
  have count : 3 - rest.length = (p.operand v w).length + 1 := by
    have total := congrArg List.length held
    rw [List.length_append, List.length_cons, List.length_singleton] at total
    omega
  rw [count]
  cases stored : isStorage (s.read16 .pc) with
  | false => rw [fetchPast_of_gap stored, fetchInstr_of_gap stored]; rfl
  | true =>
    have next : s.read16 .pc + 2 = s.read16 .pc + 1 + 1 := add_ofNat_succ _ 1
    rw [fetchPast_of_stored stored, fetchInstr_of_stored stored first]
    exact fetchOperand_eq_map (by rw [held, next, byteAt_write16, byteAt_write16]; rfl)

/-! ## Steps and ticks of a running machine (60_exceptions.md R316) -/

theorem step_of_running {s : State} (run : running s) :
    step s = andThen (fetchInstr s) fun d => exec d.1 d.2 := by
  obtain ⟨noFault, notHalted⟩ := run
  simp only [step, noFault, notHalted]
  rfl

theorem step_of_fault {s : State} {r : FaultRecord} (recorded : s.fault = some r) :
    step s = .fault (.runOver r s) := by
  simp only [step, recorded]

/-- The tick's outcome is the step's: completed with a count, faulted with the record in the state, or refused. -/
inductive TickAnswers (p : TickParams) (s : State) : Result → TickOutcome → Prop
  | next (t : State) (cycles : Byte) : TickAnswers p s (.next t) (.next t cycles)
  | fault (f : Fault) : TickAnswers p s (.fault f) (.faulted (s.faulted p.faultState f))
  | refused (r : Refusal) : TickAnswers p s (.refused r) (.refused r)

theorem tickAnswers_step {s : State} {p : TickParams} (noWake : p.haltWake = false) (run : running s) :
    TickAnswers p s (step s) (tick p s) := by
  have asleep : s.wakened p = s := if_neg (Bool.eq_false_iff.1 noWake)
  rw [step_of_running run]
  obtain ⟨noFault, notHalted⟩ := run
  simp only [tick, noFault, asleep, notHalted]
  cases fetchInstr s with
  | error f => exact .fault f
  | ok d =>
    simp only [andThen_ok]
    cases exec d.1 d.2 with
    | next t => exact .next t _
    | fault f => exact .fault f
    | refused r => exact .refused r

/-- Where no fault was recorded before, a tick that faults records what its step raised. -/
theorem fault_faulted_of_none {s : State} (noFault : s.fault = none) (faultState : FaultState) (f : Fault) :
    (s.faulted faultState f).fault = some f.record := by
  rw [fault_faulted, noFault]; rfl

theorem step_ne_refused (s : State) (r : Refusal) : step s ≠ .refused r := by
  intro refused
  cases recorded : s.fault with
  | some q => cases (step_of_fault recorded).symm.trans refused
  | none =>
    cases halted : s.halted with
    | true => cases (step_of_halted recorded halted).symm.trans refused
    | false =>
      rw [step_of_running ⟨recorded, halted⟩] at refused
      cases fetched : fetchInstr s with
      | error f => rw [fetched] at refused; cases refused
      | ok d => rw [fetched] at refused; exact exec_ne_refused d.1 d.2 r refused

/-! ## What the host's actions keep (60_exceptions.md R328) -/

/-- The update keeps the invariant and the fault record. -/
structure HostKeeps (s t : State) : Prop where
  inv : s.Inv → t.Inv
  fault : t.fault = s.fault

theorem HostKeeps.refl (s : State) : HostKeeps s s := ⟨id, rfl⟩

theorem HostKeeps.trans {s t u : State} (first : HostKeeps s t) (second : HostKeeps t u) : HostKeeps s u :=
  ⟨second.inv ∘ first.inv, second.fault.trans first.fault⟩

/-- A write of F clears F[3:0] (10_state.md R26). -/
theorem lowNibbleClear_write8_f (s : State) (v : Byte) : lowNibbleClear (s.write8 .f v) := by
  have mask : ∀ b : Byte, b &&& 0xF0 &&& 0x0F = 0 := by decide
  calc
    combine (hi s.af) (v &&& 0xF0) &&& combine 0#8 0x0F = combine (hi s.af &&& 0#8) (v &&& 0xF0 &&& 0x0F) :=
      BitVec.and_append
    _ = 0 := by rw [mask, BitVec.and_zero]; rfl

theorem hostKeeps_write8 (s : State) (r : Reg8) (v : Byte) : HostKeeps s (s.write8 r v) := by
  refine ⟨fun inv => ?_, fault_write8 s r v⟩
  by_cases isF : r = .f
  · subst isF
    exact ⟨lowNibbleClear_write8_f s v, mem_write8 s .f v ▸ inv.memory, inv.running⟩
  · exact inv.write8 isF v

theorem hostKeeps_writeByte {a : Word} {v : Byte} {s t : State} (written : writeByte a v s = .ok t) :
    HostKeeps s t := by
  obtain ⟨stored, rfl⟩ := writeByte_eq_ok.1 written
  exact ⟨fun inv => inv.putByte stored v, rfl⟩

theorem hostKeeps_writeWord {a w : Word} {s t : State} (written : writeWord a w s = .ok t) : HostKeeps s t := by
  obtain ⟨low, high, rfl⟩ := writeWord_eq_ok.1 written
  exact ⟨fun inv => (inv.putByte low _).putByte high _, rfl⟩

theorem hostKeeps_hostAct {faultState : FaultState} {act : HostAction} {reply : HostReply} {s t : State}
    (answered : hostAct faultState act s = .answered reply t) : HostKeeps s t := by
  cases act with
  | readByte | readWord =>
    obtain ⟨_, -, same⟩ := hostAccess_answered answered
    cases same
    exact .refl s
  | writeByte =>
    obtain ⟨u, written, same⟩ := hostAccess_answered answered
    cases same
    exact hostKeeps_writeByte written
  | writeWord =>
    obtain ⟨u, written, same⟩ := hostAccess_answered answered
    cases same
    exact hostKeeps_writeWord written
  | read8 | read16 | readFlag | readIme => cases answered; exact .refl s
  | write8 r v => cases answered; exact hostKeeps_write8 s r v
  | write16 r w => cases answered; exact ⟨fun inv => inv.write16 r w, fault_write16 s r w⟩
  | writeFlag f v => cases answered; exact ⟨fun inv => inv.writeFlag f v, rfl⟩
  | writeIme v => cases answered; exact ⟨fun inv => inv.writeIme v, rfl⟩

theorem hostKeeps_loadImage {faultState : FaultState} {image : List (Word × Byte)} {reply : HostReply} {s t : State}
    (answered : loadImage faultState image s = .answered reply t) : HostKeeps s t := by
  induction image generalizing s with
  | nil => cases answered; exact .refl _
  | cons cell rest ih =>
    obtain ⟨u, written, others⟩ := hostAccess_answered answered
    exact (hostKeeps_writeByte written).trans (ih others)

/-! ## An access of the host that faults (60_exceptions.md R311, R312) -/

/-- A data access faulted: its record is in the state, unless one was recorded before, which stays. -/
def HostFaulted (s t : State) : Prop := ∃ f : Fault, f.FromData ∧ t.fault = some (s.fault.getD f.record)

/-- An access of the host faults in its own operation, which only a data access can do, or in what follows it. -/
theorem hostFaulted_hostAccess {access : Bool} {α : Type} {faultState : FaultState} {s t : State} {x : Except Fault α}
    {k : α → HostOutcome} (ends : OnlyDataFaults access x) (faulted : hostAccess faultState s x k = .faulted t)
    (goesOn : ∀ a, x = .ok a → k a = .faulted t → HostFaulted s t) : HostFaulted s t := by
  obtain ⟨f, raised, isFaulted⟩ | ⟨a, answered, later⟩ := hostAccess_faulted faulted
  · exact ⟨f, ends.fromData raised, isFaulted ▸ fault_faulted s faultState f⟩
  · exact goesOn a answered later

theorem hostFaulted_hostAct {faultState : FaultState} {act : HostAction} {s t : State}
    (faulted : hostAct faultState act s = .faulted t) : HostFaulted s t := by
  cases act with
  | readByte a => exact hostFaulted_hostAccess (onlyDataFaults_readByte a _) faulted nofun
  | writeByte a v => exact hostFaulted_hostAccess (onlyDataFaults_writeByte a v s) faulted nofun
  | readWord a => exact hostFaulted_hostAccess (onlyDataFaults_readWord a s) faulted nofun
  | writeWord a w => exact hostFaulted_hostAccess (onlyDataFaults_writeWord a w s) faulted nofun
  | _ => cases faulted

theorem hostFaulted_loadImage {faultState : FaultState} {image : List (Word × Byte)} {s t : State}
    (faulted : loadImage faultState image s = .faulted t) : HostFaulted s t := by
  induction image generalizing s with
  | nil => cases faulted
  | cons cell rest ih =>
    refine hostFaulted_hostAccess (onlyDataFaults_writeByte _ _ s) faulted fun u written later => ?_
    have laterFault := ih later
    rwa [HostFaulted, (hostKeeps_writeByte written).fault] at laterFault

/-- An access of the host that raises a fault leaves a machine where it is recorded. -/
theorem hostAccess_records {α : Type} {faultState : FaultState} {s : State} {x : Except Fault α} {f : Fault}
    (raised : x = .error f) (noFault : s.fault = none) (k : α → HostOutcome) :
    ∃ t, hostAccess faultState s x k = .faulted t ∧ t.fault = some f.record := by
  subst raised
  exact ⟨_, rfl, fault_faulted_of_none noFault faultState f⟩

/-! ## The statements -/

/-- Settles O49: the twelve rows raise DecodeFault, and every other row ends in a next state or in the fault of a data
access that it has. -/
theorem noOtherFaults : Obligations.NoOtherFaults := by
  intro i s
  refine ⟨exec_ne_refused i s, fun f faulted => ?faults, fun row noAccess => ?completes⟩
  case faults =>
    cases row : noInstruction i with
    | true =>
      obtain ⟨op, encoded, raises⟩ := exec_noInstruction row s
      cases raises.symm.trans faulted
      exact .inl ⟨rfl, op, encoded, rfl⟩
    | false =>
      have ends := exec_completesOrDataFaults row s
      rw [faulted] at ends
      cases ends with
      | fault allowed fromData =>
        obtain ⟨addr, kind, record, gap, -⟩ := fromData
        exact .inr ⟨allowed, addr, kind, record, gap⟩
  case completes =>
    have ends := exec_completesOrDataFaults row s
    rw [noAccess] at ends
    generalize exec i s = o at ends
    cases ends with
    | next t => exact ⟨t, rfl⟩
    | fault allowed => cases allowed

/-- Settles O47: an instruction that is not named keeps IME, or halted, through all its updates, and every instruction
keeps the fault record through them. -/
theorem onlyFourInstructionsWriteControlState : Obligations.OnlyFourInstructionsWriteControlState := by
  intro i s t ran
  refine ⟨fun changed => ?ime, fun changed => ?halted, exec_keeps (fault_keptByUpdates i s.fault) rfl ran⟩
  case ime =>
    by_contra other
    exact changed (exec_keeps (ime_keptByUpdates other s.ime) rfl ran)
  case halted =>
    by_contra other
    exact changed (exec_keeps (halted_keptByUpdates other s.halted) rfl ran)

/-- Settles O50: the bytes that the decoder reads are fetched one by one, which moves PC past them. -/
theorem stepRunsTheDecodedInstruction : Obligations.StepRunsTheDecodedInstruction := by
  intro s i rest run decoded stored
  rw [step_of_running run, fetchInstr_of_decode decoded, fetchPast_ok stored]
  rfl

/-- Settles O51: the bytes are fetched one by one, and the first without storage ends the fetch. -/
theorem fetchFaultsInOrder : Obligations.FetchFaultsInOrder := by
  intro s i rest k run decoded lt stored gap
  obtain ⟨f, fetched, record⟩ := fetchPast_error lt stored gap
  rw [step_of_running run, fetchInstr_of_decode decoded, fetched]
  exact congrArg some record

/-- Settles O52: no tick of a faulted machine, the idle tick of a halted one, and of a running one the outcome of its
step, which is no refusal. -/
theorem tickRefinesStep : Obligations.TickRefinesStep := by
  intro s faultState
  refine ⟨fun r p recorded => tick_of_fault recorded p, ?_⟩
  cases recorded : s.fault with
  | some r =>
    rw [tick_of_fault recorded]
    exact ⟨r, rfl, step_of_fault recorded⟩
  | none =>
    cases halted : s.halted with
    | true =>
      rw [tick_of_halted rfl recorded halted]
      exact ⟨step_of_halted recorded halted, rfl, rfl, rfl⟩
    | false =>
      have answers := tickAnswers_step (p := .standard faultState) rfl ⟨recorded, halted⟩
      have notRefused := step_ne_refused s
      generalize step s = o, tick (.standard faultState) s = k at answers notRefused
      cases answers with
      | next t cycles => exact ⟨rfl, rfl⟩
      | fault f =>
        have record := fault_faulted_of_none recorded faultState f
        exact ⟨⟨f, rfl, record⟩, tick_of_fault record⟩
      | refused r => exact notRefused r rfl

/-- Settles O56: an answered action is made of updates that keep the invariant, a faulting one raises the fault of a
data access, and where there is no storage each bus operation faults at its first byte. -/
theorem hostKeepsTheInvariant : Obligations.HostKeepsTheInvariant := by
  intro s faultState
  refine ⟨fun reply t answered => ?answered, fun t faulted => ?faulted, fun addr v w gap noFault => ?gap⟩
  case answered =>
    have kept : HostKeeps s t := by
      obtain ⟨act, answered⟩ | ⟨image, answered⟩ := answered
      · exact hostKeeps_hostAct answered
      · exact hostKeeps_loadImage answered
    exact ⟨kept.inv, kept.fault⟩
  case faulted =>
    have hostFaulted : HostFaulted s t := by
      obtain ⟨act, faulted⟩ | ⟨image, faulted⟩ := faulted
      · exact hostFaulted_hostAct faulted
      · exact hostFaulted_loadImage faulted
    obtain ⟨f, ⟨addr, kind, record, gap, notFetch⟩, recorded⟩ := hostFaulted
    refine ⟨fun noFault => ⟨addr, kind, ?_, gap, notFetch⟩, fun r before => ?_, tick_of_fault recorded⟩
    · rw [recorded, noFault, ← record]; rfl
    · rw [recorded, before]; rfl
  case gap =>
    exact ⟨hostAccess_records (readByte_error gap .read s) noFault _,
      hostAccess_records (writeByte_error gap v s) noFault _,
      hostAccess_records (readWord_error_low gap s) noFault _,
      hostAccess_records (writeWord_error_low gap w s) noFault _⟩

end Sys2Proof.Machine
end

section
/-! PROOFS. The reset and cycles family (70_reset_and_hazards.md): where the default cycle table looks at the state, what
a list of one byte decodes to, and the two statements of the family. -/

namespace Sys2Proof.Machine

/-! ## The default cycle table (70_reset_and_hazards.md R350 to R352) -/

/-- The rows that the state does not enter: all but the four conditional forms. -/
theorem defaultCycles_eq_of_unconditional {i : Instr} (notJr : ∀ cc e8, i ≠ .jrCcE8 cc e8)
    (notJp : ∀ cc a16, i ≠ .jpCcA16 cc a16) (notCall : ∀ cc a16, i ≠ .callCcA16 cc a16) (notRet : ∀ cc, i ≠ .retCc cc)
    (s s' : State) : defaultCycles i s = defaultCycles i s' := by
  cases i with
  | jrCcE8 cc e8 => exact absurd rfl (notJr cc e8)
  | jpCcA16 cc a16 => exact absurd rfl (notJp cc a16)
  | callCcA16 cc a16 => exact absurd rfl (notCall cc a16)
  | retCc cc => exact absurd rfl (notRet cc)
  | _ => rfl

/-- The counts of the four conditional forms where the condition holds. -/
theorem defaultCycles_of_taken {cc : Cond} {s : State} (taken : condMeans cc s) (e8 : Byte) (a16 : Word) :
    defaultCycles (.jrCcE8 cc e8) s = 3 ∧ defaultCycles (.jpCcA16 cc a16) s = 4 ∧
      defaultCycles (.callCcA16 cc a16) s = 6 ∧ defaultCycles (.retCc cc) s = 5 := by
  have holds := (condHolds_eq_true cc s).2 taken
  exact ⟨if_pos holds, if_pos holds, if_pos holds, if_pos holds⟩

/-- The counts of the four conditional forms where the condition fails. -/
theorem defaultCycles_of_untaken {cc : Cond} {s : State} (untaken : ¬ condMeans cc s) (e8 : Byte) (a16 : Word) :
    defaultCycles (.jrCcE8 cc e8) s = 2 ∧ defaultCycles (.jpCcA16 cc a16) s = 3 ∧
      defaultCycles (.callCcA16 cc a16) s = 3 ∧ defaultCycles (.retCc cc) s = 2 := by
  have fails := mt (condHolds_eq_true cc s).1 untaken
  exact ⟨if_neg fails, if_neg fails, if_neg fails, if_neg fails⟩

/-! ## One byte decoded (30_encoding.md R108) -/

/-- A byte that decodes by itself is the row of an instruction without operand bytes. -/
theorem decodeFirst_of_decode_single {op : Byte} {i : Instr} (decoded : decode [op] = .ok (i, [])) :
    decodeFirst op = some (.op i) := by
  obtain ⟨byte, p, v, w, first, rfl, bytes⟩ := pattern_of_decode decoded
  obtain ⟨rfl, noOperand⟩ := List.cons.inj bytes
  cases p with
  | op i => exact first
  | opImm8 | opImm16 | cb => cases noOperand

/-! ## The statements -/

/-- Settles O53: the table's rows but four do not look at the state, and the four conditional rows have the smaller count
where the condition fails. -/
theorem untakenConditionalsAreCheaper : Obligations.UntakenConditionalsAreCheaper := by
  refine ⟨fun i s s' notJr notJp notCall notRet => defaultCycles_eq_of_unconditional notJr notJp notCall notRet s s',
    fun cc e8 a16 s s' taken untaken => ?conditional⟩
  case conditional =>
    obtain ⟨jr, jp, call, ret⟩ := defaultCycles_of_taken taken e8 a16
    obtain ⟨jr', jp', call', ret'⟩ := defaultCycles_of_untaken untaken e8 a16
    rw [jp, jp', call, call', ret, ret']
    exact ⟨jr, jr', by decide, by decide, by decide⟩

/-- Settles O54: the reset values are read off, and the machine, running with PC at the stored byte, executes that byte's
row. -/
theorem powerOnState : Obligations.PowerOnState := by
  refine ⟨fun r => ?slot, fun r => ?half, fun f => ?flag, fun _ => rfl, rfl, rfl, rfl, fun op i decoded => ?firstStep⟩
  case slot => cases r <;> rfl
  case half => cases r <;> rfl
  case flag => cases f <;> rfl
  case firstStep =>
    have stored : (State.reset.putByte 0x0000 op).byteAt 0x0000 = op := byteAt_putByte_self _ _ _
    exact step_single ⟨rfl, rfl⟩ rfl (stored.symm ▸ decodeFirst_of_decode_single decoded)

end Sys2Proof.Machine
end
